-- ==== Sys2Proof/Word.lean ====
section
/-! DEFINITION. The words of the hardware and their widths (00_scope R7; 10_state R11, R14; 30_encoding R65, R69).
All values are unsigned (R7); a width stands here once and nowhere else. -/

namespace Sys2Proof

/-- One channel value, 0 to 255 (10_state R11). -/
abbrev Byte := BitVec 8

/-- A packed colour, a 32-bit immediate or a response word (30_encoding R61, R69). -/
abbrev Word := BitVec 32

/-- A command word on the command port (30_encoding R65). -/
abbrev CmdWord := BitVec 64

/-- A pixel-index operand, `IDX_BITS = 16` bits (00_scope R5). -/
abbrev PixIdx := BitVec 16

/-- A line level: 0 is low, 1 is high (10_state R14). -/
abbrev Level := BitVec 1

/-- A duration in peripheral-clock ticks, `DUR_BITS = 15` bits (00_scope R5). -/
abbrev Duration := BitVec 15

end Sys2Proof
end

