-- ==== Sys2Proof/Syntax.lean ====
section
/-! DEFINITION. The syntax of the hardware: the Color value, the names of the Color registers, the eighteen commands
(30_encoding R67: one constructor for each row of spec/opcode_table.json) and the assembler's commands with plain
numbers as operands (R71, R72). -/

namespace Sys2Proof

/-- A Color: four independent 8-bit channels (10_state R11). -/
structure Color where
  red : Byte
  green : Byte
  blue : Byte
  white : Byte
  deriving DecidableEq, Repr, Inhabited

/-- The names of the four Color registers (10_state R12). -/
inductive CReg where
  | c0 | c1 | c2 | c3
  deriving DecidableEq, Repr

/-- The commands of the block (30_encoding R67). `showStrip` is SHOW. -/
inductive Instr where
  | csetrgbw (cd : CReg) (r g b w : Byte)
  | csetcolor (cd cs : CReg)
  | cset32 (cd : CReg) (packed : Word)
  | cget32 (cd : CReg)
  | csetr (cd : CReg) (v : Byte)
  | csetg (cd : CReg) (v : Byte)
  | csetb (cd : CReg) (v : Byte)
  | csetw (cd : CReg) (v : Byte)
  | cgetr (cd : CReg)
  | cgetg (cd : CReg)
  | cgetb (cd : CReg)
  | cgetw (cd : CReg)
  | setpixc (idx : PixIdx) (cs : CReg)
  | setpixrgbw (idx : PixIdx) (r g b w : Byte)
  | clear
  | showStrip
  | destroy
  | rdstat
  deriving DecidableEq, Repr

/-- A command as the assembler writes it (30_encoding R71), operands as the numbers of the listing, which may be out
of range; the last two constructors are the pseudo-commands of R72. -/
inductive Asm where
  | csetrgbw (cd r g b w : Nat)
  | csetcolor (cd cs : Nat)
  | cset32 (cd packed : Nat)
  | cget32 (cd : Nat)
  | csetr (cd v : Nat)
  | csetg (cd v : Nat)
  | csetb (cd v : Nat)
  | csetw (cd v : Nat)
  | cgetr (cd : Nat)
  | cgetg (cd : Nat)
  | cgetb (cd : Nat)
  | cgetw (cd : Nat)
  | setpixc (idx cs : Nat)
  | setpixrgbw (idx r g b w : Nat)
  | clear
  | showStrip
  | destroy
  | rdstat
  | csetrgb (cd r g b : Nat)
  | setpixrgb (idx r g b : Nat)
  deriving DecidableEq, Repr

end Sys2Proof
end

