-- ==== Sys2Proof/Config.lean ====
section
/-! DEFINITION. What an instance is configured with (00_scope R5), the arguments of a construction (70_reset R170), and
the free values: what the spec leaves unspecified, as constants with no body. -/

namespace Sys2Proof

/-- A pulse item: two (level, duration) phases, the first pair emitted first (10_state R14). -/
structure Item where
  level0 : Level
  duration0 : Duration
  level1 : Level
  duration1 : Duration
  deriving DecidableEq, Repr, Inhabited

/-- One phase of the line: a level held for a number of ticks (00_scope R8). -/
structure Phase where
  level : Level
  duration : Duration
  deriving DecidableEq, Repr, Inhabited

/-- What a peripheral call answers (30_encoding R74). -/
inductive Result where
  | ok | err
  deriving DecidableEq, Repr

/-- `WAIT_TIMEOUT` (00_scope R5; 92_eei D14): `forever` is the only value with a specified behaviour. -/
inductive Timeout where
  | forever
  | finite (ticks : Nat)
  deriving DecidableEq, Repr

/-- The parameters of one instance (00_scope R5; 10_state R16, R17): they change at a construction only. `resetGapTicks` is
`RESET_GAP_TICKS`, the gap the host owes the LEDs; the block neither checks nor enforces it (70_reset R176; log 30). -/
structure InstanceConfig where
  length : Nat
  pin : Nat
  channel : Nat
  clkdiv : Nat
  t0h : Duration
  t0l : Duration
  t1h : Duration
  t1l : Duration
  waitTimeout : Timeout
  zeroCountTxOk : Bool
  resetGapTicks : Nat
  deriving DecidableEq, Repr

/-- The inputs of a construction: its arguments and what the environment answers (70_reset R170, 10_state R25). -/
structure ConstructArgs where
  cfg : InstanceConfig
  allocPixOk : Bool
  allocWaveOk : Bool
  cfgResult : Result
  installResult : Result
  deriving DecidableEq, Repr

/-- Content of a Color register after DESTROY or a failed allocation: any value (93 U12, U16; log 7, 8). -/
opaque Config.freeReg : Nat → CReg → Color

/-- Content of an entry of PIX after DESTROY or a failed allocation: any value (93 U12, U16; log 7, 8). -/
opaque Config.freePixel : Nat → Nat → Color

/-- BUSY after a failed `configure` or `install`: any value (93 U15; log 9). -/
opaque Config.freeBusy : Nat → Bool

/-- INFLIGHT after a failed `configure` or `install`: any value (93 U15; log 9). -/
opaque Config.freeInflight : Nat → List Item

/-- LINE after a failed `configure` or `install`: any value (93 U15; log 9). -/
opaque Config.freeLine : Nat → Level

end Sys2Proof
end

