-- ==== Sys2Proof/WellFormed.lean ====
section
/-! DEFINITION. What is checked before a term has a meaning: the operand ranges of an assembler command (30_encoding R71)
and the parameters of a construction (00_scope R5; 92_eei D6, D9; 93 U13). The operands of an `Instr` are in range by
their types (00_scope R7, 91_not_in_source N6), so every `Instr` is well formed. -/

namespace Sys2Proof

/-- A Color register number: 0 to 3 (R71). -/
def regOk (n : Nat) : Bool := decide (n < 4)

/-- A channel immediate: 0 to 255 (R71). -/
def byteOk (n : Nat) : Bool := decide (n < 256)

/-- A pixel index: 0 to 65535 (R71). -/
def idxOk (n : Nat) : Bool := decide (n < 65536)

/-- A packed colour: 0 to 0xFFFFFFFF (R71). -/
def packedOk (n : Nat) : Bool := decide (n < 4294967296)

/-- Every operand of an assembler command is in the range R71 gives it. -/
def Asm.wellFormed : Asm → Bool
  | .csetrgbw cd r g b w => regOk cd && byteOk r && byteOk g && byteOk b && byteOk w
  | .csetcolor cd cs => regOk cd && regOk cs
  | .cset32 cd packed => regOk cd && packedOk packed
  | .cget32 cd => regOk cd
  | .csetr cd v => regOk cd && byteOk v
  | .csetg cd v => regOk cd && byteOk v
  | .csetb cd v => regOk cd && byteOk v
  | .csetw cd v => regOk cd && byteOk v
  | .cgetr cd => regOk cd
  | .cgetg cd => regOk cd
  | .cgetb cd => regOk cd
  | .cgetw cd => regOk cd
  | .setpixc idx cs => idxOk idx && regOk cs
  | .setpixrgbw idx r g b w => idxOk idx && byteOk r && byteOk g && byteOk b && byteOk w
  | .clear => true
  | .showStrip => true
  | .destroy => true
  | .rdstat => true
  | .csetrgb cd r g b => regOk cd && byteOk r && byteOk g && byteOk b
  | .setpixrgb idx r g b => idxOk idx && byteOk r && byteOk g && byteOk b

/-- `0 <= LENGTH <= 65535` (R5, D6). -/
def InstanceConfig.lengthOk (c : InstanceConfig) : Bool := decide (c.length ≤ 65535)

/-- Each duration is at least 1 (R5, D9); below `2^15` it is by its type. -/
def InstanceConfig.durationsOk (c : InstanceConfig) : Bool :=
  decide (1 ≤ c.t0h.toNat) && decide (1 ≤ c.t0l.toNat) && decide (1 ≤ c.t1h.toNat) && decide (1 ≤ c.t1l.toNat)

/-- `T1H > T0H`, the one constraint the source gives (R5, 10_state R16). -/
def InstanceConfig.asymmetric (c : InstanceConfig) : Bool := decide (c.t0h.toNat < c.t1h.toNat)

/-- The configuration is one the spec gives a meaning (93 U13, D6). -/
def InstanceConfig.wellFormed (c : InstanceConfig) : Bool := c.lengthOk && c.durationsOk && c.asymmetric

end Sys2Proof
end

