-- ==== Sys2Proof/Decode.lean ====
section
/-! DEFINITION. The command word (30_encoding R65 to R68): its fields, the decoder (total, rejecting by name), the
encoder, the table of match and mask words, and the assembler's operands turned into a command (R71, R72). -/

namespace Sys2Proof

/-- The six fields of a command word (R65). -/
structure Fields where
  op : BitVec 8
  cd : BitVec 2
  cs : BitVec 2
  rsv : BitVec 4
  idx : PixIdx
  imm : Word
  deriving DecidableEq, Repr

/-- `OP[63:56] CD[55:54] CS[53:52] RSV[51:48] IDX[47:32] IMM[31:0]` (R65). -/
def fieldsOf (w : CmdWord) : Fields where
  op := w.extractLsb' 56 8
  cd := w.extractLsb' 54 2
  cs := w.extractLsb' 52 2
  rsv := w.extractLsb' 48 4
  idx := w.extractLsb' 32 16
  imm := w.extractLsb' 0 32

/-- The word with the given fields (R65). -/
def wordOf (f : Fields) : CmdWord := f.op ++ f.cd ++ f.cs ++ f.rsv ++ f.idx ++ f.imm

/-- Why a word is no command (R68): its opcode is not assigned, or a field its format does not use is not zero. -/
inductive DecodeError where
  | unassignedOpcode
  | unusedFieldNonzero
  deriving DecidableEq, Repr

/-- A register field names `cr[0]` to `cr[3]` as it stands (R66). -/
def cregOf (n : BitVec 2) : CReg :=
  if n = 0 then .c0 else if n = 1 then .c1 else if n = 2 then .c2 else .c3

/-- The register field of a register (R66). -/
def cregCode : CReg → BitVec 2
  | .c0 => 0
  | .c1 => 1
  | .c2 => 2
  | .c3 => 3

/-- The instruction, if the fields it must leave zero are zero (R65, R68). -/
def ifUnusedZero (zero : Bool) (i : Instr) : Except DecodeError Instr :=
  if zero then .ok i else .error .unusedFieldNonzero

/-- Format C with an operand in CS or IMM only where the row says so: RSV and IDX are zero (R65). -/
def Fields.zeroC (f : Fields) : Bool := f.rsv == 0 && f.idx == 0

/-- `CD` and all of `IMM` used (CSETRGBW, CSET32). -/
def Fields.zeroImm (f : Fields) : Bool := f.zeroC && f.cs == 0

/-- `CD` and `CS` used (CSETCOLOR). -/
def Fields.zeroTwoReg (f : Fields) : Bool := f.zeroC && f.imm == 0

/-- `CD` and `IMM[7:0]` used (the channel setters): `IMM[31:8]` is zero (R66). -/
def Fields.zeroByte (f : Fields) : Bool := f.zeroC && f.cs == 0 && f.imm.extractLsb' 8 24 == 0

/-- `CD` alone used (the getters). -/
def Fields.zeroReg (f : Fields) : Bool := f.zeroC && f.cs == 0 && f.imm == 0

/-- `IDX` and `CS` used (SETPIXC): format P leaves RSV and CD zero (R65). -/
def Fields.zeroPixReg (f : Fields) : Bool := f.rsv == 0 && f.cd == 0 && f.imm == 0

/-- `IDX` and `IMM` used (SETPIXRGBW). -/
def Fields.zeroPixImm (f : Fields) : Bool := f.rsv == 0 && f.cd == 0 && f.cs == 0

/-- Format N: every field but `OP` is zero (R65). -/
def Fields.zeroN (f : Fields) : Bool := f.cd == 0 && f.cs == 0 && f.rsv == 0 && f.idx == 0 && f.imm == 0

/-- `IMM[31:24]`, `IMM[23:16]`, `IMM[15:8]`, `IMM[7:0]`: the four channel immediates (R66). -/
def Fields.immR (f : Fields) : Byte := f.imm.extractLsb' 24 8
def Fields.immG (f : Fields) : Byte := f.imm.extractLsb' 16 8
def Fields.immB (f : Fields) : Byte := f.imm.extractLsb' 8 8
def Fields.immW (f : Fields) : Byte := f.imm.extractLsb' 0 8

/-- The command of the fields (R67), or why there is none (R68). -/
def decodeFields (f : Fields) : Except DecodeError Instr :=
  if f.op = 0x01 then ifUnusedZero f.zeroImm (.csetrgbw (cregOf f.cd) f.immR f.immG f.immB f.immW)
  else if f.op = 0x02 then ifUnusedZero f.zeroTwoReg (.csetcolor (cregOf f.cd) (cregOf f.cs))
  else if f.op = 0x03 then ifUnusedZero f.zeroImm (.cset32 (cregOf f.cd) f.imm)
  else if f.op = 0x04 then ifUnusedZero f.zeroReg (.cget32 (cregOf f.cd))
  else if f.op = 0x05 then ifUnusedZero f.zeroByte (.csetr (cregOf f.cd) f.immW)
  else if f.op = 0x06 then ifUnusedZero f.zeroByte (.csetg (cregOf f.cd) f.immW)
  else if f.op = 0x07 then ifUnusedZero f.zeroByte (.csetb (cregOf f.cd) f.immW)
  else if f.op = 0x08 then ifUnusedZero f.zeroByte (.csetw (cregOf f.cd) f.immW)
  else if f.op = 0x09 then ifUnusedZero f.zeroReg (.cgetr (cregOf f.cd))
  else if f.op = 0x0A then ifUnusedZero f.zeroReg (.cgetg (cregOf f.cd))
  else if f.op = 0x0B then ifUnusedZero f.zeroReg (.cgetb (cregOf f.cd))
  else if f.op = 0x0C then ifUnusedZero f.zeroReg (.cgetw (cregOf f.cd))
  else if f.op = 0x10 then ifUnusedZero f.zeroPixReg (.setpixc f.idx (cregOf f.cs))
  else if f.op = 0x11 then ifUnusedZero f.zeroPixImm (.setpixrgbw f.idx f.immR f.immG f.immB f.immW)
  else if f.op = 0x12 then ifUnusedZero f.zeroN .clear
  else if f.op = 0x13 then ifUnusedZero f.zeroN .showStrip
  else if f.op = 0x14 then ifUnusedZero f.zeroN .destroy
  else if f.op = 0x15 then ifUnusedZero f.zeroN .rdstat
  else .error .unassignedOpcode

/-- The decoder: any 64-bit word is one row of R67 or illegal (R68). -/
def decode (w : CmdWord) : Except DecodeError Instr := decodeFields (fieldsOf w)

/-- A format C word (R65): `CD`, `CS`, `IMM`; RSV and IDX zero. -/
def fieldsC (op : BitVec 8) (cd cs : BitVec 2) (imm : Word) : Fields :=
  { op := op, cd := cd, cs := cs, rsv := 0, idx := 0, imm := imm }

/-- A format P word (R65): `IDX`, `CS`, `IMM`; RSV and CD zero. -/
def fieldsP (op : BitVec 8) (cs : BitVec 2) (idx : PixIdx) (imm : Word) : Fields :=
  { op := op, cd := 0, cs := cs, rsv := 0, idx := idx, imm := imm }

/-- A format N word (R65): `OP` alone. -/
def fieldsN (op : BitVec 8) : Fields := { op := op, cd := 0, cs := 0, rsv := 0, idx := 0, imm := 0 }

/-- One channel immediate: `IMM[7:0] = v`, the rest zero (R66). -/
def immByte (v : Byte) : Word := (0 : BitVec 24) ++ v

/-- Four channel immediates: `IMM = {r, g, b, w}` (R66). -/
def immRgbw (r g b w : Byte) : Word := r ++ g ++ b ++ w

/-- The fields of a command (R65, R66, R67). -/
def encodeFields : Instr → Fields
  | .csetrgbw cd r g b w => fieldsC 0x01 (cregCode cd) 0 (immRgbw r g b w)
  | .csetcolor cd cs => fieldsC 0x02 (cregCode cd) (cregCode cs) 0
  | .cset32 cd packed => fieldsC 0x03 (cregCode cd) 0 packed
  | .cget32 cd => fieldsC 0x04 (cregCode cd) 0 0
  | .csetr cd v => fieldsC 0x05 (cregCode cd) 0 (immByte v)
  | .csetg cd v => fieldsC 0x06 (cregCode cd) 0 (immByte v)
  | .csetb cd v => fieldsC 0x07 (cregCode cd) 0 (immByte v)
  | .csetw cd v => fieldsC 0x08 (cregCode cd) 0 (immByte v)
  | .cgetr cd => fieldsC 0x09 (cregCode cd) 0 0
  | .cgetg cd => fieldsC 0x0A (cregCode cd) 0 0
  | .cgetb cd => fieldsC 0x0B (cregCode cd) 0 0
  | .cgetw cd => fieldsC 0x0C (cregCode cd) 0 0
  | .setpixc idx cs => fieldsP 0x10 (cregCode cs) idx 0
  | .setpixrgbw idx r g b w => fieldsP 0x11 0 idx (immRgbw r g b w)
  | .clear => fieldsN 0x12
  | .showStrip => fieldsN 0x13
  | .destroy => fieldsN 0x14
  | .rdstat => fieldsN 0x15

/-- The command word of a command (R65, R67). -/
def encode (i : Instr) : CmdWord := wordOf (encodeFields i)

/-- The `match` word of the row of R67 that a command belongs to. -/
def rowMatch : Instr → CmdWord
  | .csetrgbw .. => 0x0100000000000000
  | .csetcolor .. => 0x0200000000000000
  | .cset32 .. => 0x0300000000000000
  | .cget32 .. => 0x0400000000000000
  | .csetr .. => 0x0500000000000000
  | .csetg .. => 0x0600000000000000
  | .csetb .. => 0x0700000000000000
  | .csetw .. => 0x0800000000000000
  | .cgetr .. => 0x0900000000000000
  | .cgetg .. => 0x0A00000000000000
  | .cgetb .. => 0x0B00000000000000
  | .cgetw .. => 0x0C00000000000000
  | .setpixc .. => 0x1000000000000000
  | .setpixrgbw .. => 0x1100000000000000
  | .clear => 0x1200000000000000
  | .showStrip => 0x1300000000000000
  | .destroy => 0x1400000000000000
  | .rdstat => 0x1500000000000000

/-- The `mask` word of the row of R67 that a command belongs to. -/
def rowMask : Instr → CmdWord
  | .csetrgbw .. => 0xFF3FFFFF00000000
  | .csetcolor .. => 0xFF0FFFFFFFFFFFFF
  | .cset32 .. => 0xFF3FFFFF00000000
  | .cget32 .. => 0xFF3FFFFFFFFFFFFF
  | .csetr .. => 0xFF3FFFFFFFFFFF00
  | .csetg .. => 0xFF3FFFFFFFFFFF00
  | .csetb .. => 0xFF3FFFFFFFFFFF00
  | .csetw .. => 0xFF3FFFFFFFFFFF00
  | .cgetr .. => 0xFF3FFFFFFFFFFFFF
  | .cgetg .. => 0xFF3FFFFFFFFFFFFF
  | .cgetb .. => 0xFF3FFFFFFFFFFFFF
  | .cgetw .. => 0xFF3FFFFFFFFFFFFF
  | .setpixc .. => 0xFFCF0000FFFFFFFF
  | .setpixrgbw .. => 0xFFFF000000000000
  | .clear => 0xFFFFFFFFFFFFFFFF
  | .showStrip => 0xFFFFFFFFFFFFFFFF
  | .destroy => 0xFFFFFFFFFFFFFFFF
  | .rdstat => 0xFFFFFFFFFFFFFFFF

/-- The eighteen (match, mask) rows of R67 in the table's order, as spec/opcode_table.json gives them. -/
def opcodeRows : List (CmdWord × CmdWord) :=
  [(0x0100000000000000, 0xFF3FFFFF00000000), (0x0200000000000000, 0xFF0FFFFFFFFFFFFF),
   (0x0300000000000000, 0xFF3FFFFF00000000), (0x0400000000000000, 0xFF3FFFFFFFFFFFFF),
   (0x0500000000000000, 0xFF3FFFFFFFFFFF00), (0x0600000000000000, 0xFF3FFFFFFFFFFF00),
   (0x0700000000000000, 0xFF3FFFFFFFFFFF00), (0x0800000000000000, 0xFF3FFFFFFFFFFF00),
   (0x0900000000000000, 0xFF3FFFFFFFFFFFFF), (0x0A00000000000000, 0xFF3FFFFFFFFFFFFF),
   (0x0B00000000000000, 0xFF3FFFFFFFFFFFFF), (0x0C00000000000000, 0xFF3FFFFFFFFFFFFF),
   (0x1000000000000000, 0xFFCF0000FFFFFFFF), (0x1100000000000000, 0xFFFF000000000000),
   (0x1200000000000000, 0xFFFFFFFFFFFFFFFF), (0x1300000000000000, 0xFFFFFFFFFFFFFFFF),
   (0x1400000000000000, 0xFFFFFFFFFFFFFFFF), (0x1500000000000000, 0xFFFFFFFFFFFFFFFF)]

/-- The instruction the decoder reads from a word whose bits are `w`, numbered as spec/opcode_table.json numbers
them; bits from `nbits` on are zero. A command is one 64-bit word (R65), so there is one word and no byte order. -/
def decodeTableWord (nbits w : Nat) : Option Instr :=
  match decode (BitVec.ofNat 64 (w % 2 ^ nbits)) with
  | .ok i => some i
  | .error _ => none

/-- The register with a number (R71: `c0` to `c3`). -/
def cregOfNat (n : Nat) : CReg := cregOf (BitVec.ofNat 2 n)

/-- The command of well-formed operands (R71); a pseudo-command expands with `w = 0` (R72). -/
def asmInstr : Asm → Instr
  | .csetrgbw cd r g b w => .csetrgbw (cregOfNat cd) (BitVec.ofNat 8 r) (BitVec.ofNat 8 g) (BitVec.ofNat 8 b) (BitVec.ofNat 8 w)
  | .csetcolor cd cs => .csetcolor (cregOfNat cd) (cregOfNat cs)
  | .cset32 cd packed => .cset32 (cregOfNat cd) (BitVec.ofNat 32 packed)
  | .cget32 cd => .cget32 (cregOfNat cd)
  | .csetr cd v => .csetr (cregOfNat cd) (BitVec.ofNat 8 v)
  | .csetg cd v => .csetg (cregOfNat cd) (BitVec.ofNat 8 v)
  | .csetb cd v => .csetb (cregOfNat cd) (BitVec.ofNat 8 v)
  | .csetw cd v => .csetw (cregOfNat cd) (BitVec.ofNat 8 v)
  | .cgetr cd => .cgetr (cregOfNat cd)
  | .cgetg cd => .cgetg (cregOfNat cd)
  | .cgetb cd => .cgetb (cregOfNat cd)
  | .cgetw cd => .cgetw (cregOfNat cd)
  | .setpixc idx cs => .setpixc (BitVec.ofNat 16 idx) (cregOfNat cs)
  | .setpixrgbw idx r g b w => .setpixrgbw (BitVec.ofNat 16 idx) (BitVec.ofNat 8 r) (BitVec.ofNat 8 g) (BitVec.ofNat 8 b) (BitVec.ofNat 8 w)
  | .clear => .clear
  | .showStrip => .showStrip
  | .destroy => .destroy
  | .rdstat => .rdstat
  | .csetrgb cd r g b => .csetrgbw (cregOfNat cd) (BitVec.ofNat 8 r) (BitVec.ofNat 8 g) (BitVec.ofNat 8 b) 0
  | .setpixrgb idx r g b => .setpixrgbw (BitVec.ofNat 16 idx) (BitVec.ofNat 8 r) (BitVec.ofNat 8 g) (BitVec.ofNat 8 b) 0

/-- The assembler: a command word for a well-formed command, nothing for an operand out of range (R71, R72). -/
def assemble (a : Asm) : Option CmdWord :=
  if a.wellFormed then some (encode (asmInstr a)) else none

end Sys2Proof
end

