-- ==== Sys2Proof/Machine/State.lean ====
section
/-! DEFINITION. The state of one strip instance (10_state R10: all of it), the inputs of its environment and the
observations of a run as plain data beside it, the reasons a step can stop, and the state after reset (R26). -/

namespace Sys2Proof.Machine

/-- The phase register PH (10_state R18). -/
inductive Ph where
  | idle | wait | enc | tx
  deriving DecidableEq, Repr

/-- The four Color registers (10_state R12). -/
structure ColorRegs where
  c0 : Color
  c1 : Color
  c2 : Color
  c3 : Color
  deriving DecidableEq, Repr

/-- The three sticky error flags (10_state R19). -/
structure Status where
  allocFail : Bool
  cfgErr : Bool
  installErr : Bool
  deriving DecidableEq, Repr

/-- The two arrays whose allocation can fail (60_exceptions R141). -/
inductive Buffer where
  | pixels | waveform
  deriving DecidableEq, Repr

/-- The error taxonomy (60_exceptions R140). -/
inductive ErrorCause where
  | allocationFailure (which : Buffer)
  | peripheralConfigError
  | peripheralInstallError
  | outOfRangeIndex
  deriving DecidableEq, Repr

/-- The diagnostic events (60_exceptions R157). -/
inductive DiagEvent where
  | allocFail (which : Buffer)
  | cfgErr
  | installErr
  | frameBits (n : Nat)
  deriving DecidableEq, Repr

/-- The transmission modes `configure` can be given; the block passes one-shot only (60_exceptions R153). -/
inductive TxMode where
  | oneShot
  deriving DecidableEq, Repr

/-- A call on the peripheral interface with the arguments the block passes (30_encoding R74, 60_exceptions R152).
The buffer of `transmit` is WAVE itself. -/
inductive PeriphCall where
  | configure (pin channel clkdiv : Nat) (mode : TxMode) (idleLevel : Level) (idleOutputEnabled carrierEnabled : Bool)
  | install (channel : Nat)
  | waitIdle (channel : Nat) (timeout : Timeout)
  | transmit (channel count : Nat) (blocking : Bool)
  deriving DecidableEq, Repr

/-- What the host presents: a word on the command port, or a construction, which is no command (30_encoding R67). -/
inductive HostInput where
  | command (w : CmdWord)
  | construct (a : ConstructArgs)
  deriving DecidableEq, Repr

/-- The agents that move inside a run of one instance (00_scope R9): the block, fed by the host, and the peripheral. -/
inductive Agent where
  | block | peripheral
  deriving DecidableEq, Repr

/-- The inputs of the environment, which 10_state R25 says are not state of the block: the command stream, the order
in which the agents move, and the answers of the peripheral (log 1, 3, 12). -/
structure Env where
  port : List HostInput
  sched : List Agent
  waitAnswers : List Result
  txAnswers : List Result
  deriving DecidableEq, Repr

/-- What a run shows (70_reset R183, 60_exceptions R157): the response words, the diagnostic events, the frames handed
off, the phases driven on LINE, the calls on the peripheral; oldest first, append only (log 21). -/
structure Obs where
  responses : List Word
  diag : List DiagEvent
  frames : List (List Item)
  phases : List Phase
  calls : List PeriphCall
  deriving DecidableEq, Repr

/-- Memory entries by index in canonical form: indices strictly rising (log 6). -/
abbrev Cells (α : Type) := List (Nat × α)

/-- The state of the machine (10_state R10). `pix` lists no entry that reads (0,0,0,0), `wave` lists the entries MKWAVE has
written; `emitPos` (log 10) and `draw` (log 25) are the model's own; `env` and `obs` are inputs and observations. -/
structure State where
  cr : ColorRegs
  pix : Cells Color
  wave : Cells Item
  cfg : InstanceConfig
  ph : Ph
  status : Status
  live : Bool
  busy : Bool
  inflight : List Item
  line : Level
  emitPos : Nat
  draw : Nat
  env : Env
  obs : Obs
  deriving DecidableEq, Repr

/-- The machine stops with a fault: the run has gone wrong and the state after it has no meaning (60_exceptions R149). -/
inductive Fault where
  /-- Raised by SHOW when `waitIdle` answers other than Ok (93 U8); safe. -/
  | waitIdleError
  /-- Raised by SHOW when `transmit` answers other than Ok (93 U8); safe. -/
  | transmitError
  /-- Raised by SHOW when the peripheral rejects a count of zero (93 U9, `ZERO_COUNT_TX_OK` false); safe. -/
  | zeroCountRejected
  /-- Raised by SHOW if `transmit` is called with BUSY = 1, which the spec gives no meaning (91 N23) and which no
  reachable state does (60_exceptions R155); safe. -/
  | transmitWhileBusy
  /-- Raised by SHOW if the hand-off reads an entry of WAVE that MKWAVE has not written (93 U1), which no SHOW does; safe. -/
  | waveUnwritten
  deriving DecidableEq, Repr

/-- The situation has no meaning in the spec (00_scope R7, `refuse`). -/
inductive Refusal where
  /-- Raised by exec's arm of a command that has no meaning yet; safe. -/
  | notModelled (mnemonic : String)
  /-- Raised by the port for a word that is no command (30_encoding R68, 93 U7); safe. -/
  | illegalWord (why : DecodeError)
  /-- Raised by every command with LIVE = 0 (41_strip R100, 93 U12); safe. -/
  | notLive
  /-- Raised by every command executed while a SHOW holds the port, PH = WAIT or ENC (41_strip R100, 93 U5); safe. -/
  | portHeld
  /-- Raised by every command but RDSTAT and DESTROY with ALLOC_FAIL = 1 (41_strip R100, 93 U2); safe. -/
  | allocFailed
  /-- Raised by SHOW with CFG_ERR = 1 or INSTALL_ERR = 1 (41_strip R100, 93 U3); safe. -/
  | peripheralNotReady
  /-- Raised by DESTROY with PH = TX (41_strip R105, 93 U6); safe. -/
  | destroyInFlight
  /-- Raised by SHOW when a finite `WAIT_TIMEOUT` expires while it waits (60_exceptions R151, 93 U11; log 15); safe. -/
  | finiteTimeout
  /-- Raised by a construction with LIVE = 1 (70_reset R184, 93 U12); safe. -/
  | constructWhileLive
  /-- Raised by a construction whose parameters are outside 00_scope R5 (93 U13, 92 D6); safe. -/
  | illegalConfig
  deriving DecidableEq, Repr

/-- The default-valued Color (10_state R11). -/
def black : Color := { red := 0, green := 0, blue := 0, white := 0 }

/-- The parameters of the instance that reset leaves: LENGTH = 3 (the length of the spec's vectors 95 §2.3 and §2.6),
the illustrative durations of 00_scope R6, the specified timeout and `ZERO_COUNT_TX_OK`, and 500 ticks of about 100 ns, the
50 microseconds of 70_reset R176, for the gap (log 4; unsafe). -/
def resetConfig : InstanceConfig where
  length := 3
  pin := 0
  channel := 0
  clkdiv := 8
  t0h := 4
  t0l := 8
  t1h := 8
  t1l := 4
  waitTimeout := .forever
  zeroCountTxOk := true
  resetGapTicks := 500

/-- The state right after a clean construction with `resetConfig` (10_state R26): nothing presented, nothing emitted,
and the two peripheral calls of the construction made (70_reset R170). -/
def State.reset : State where
  cr := { c0 := black, c1 := black, c2 := black, c3 := black }
  pix := []
  wave := []
  cfg := resetConfig
  ph := .idle
  status := { allocFail := false, cfgErr := false, installErr := false }
  live := true
  busy := false
  inflight := []
  line := 0
  emitPos := 0
  draw := 0
  env := { port := [], sched := [], waitAnswers := [], txAnswers := [] }
  obs :=
    { responses := [], diag := [], frames := [], phases := []
      calls := [.configure 0 0 8 .oneShot 0 true false, .install 0] }

end Sys2Proof.Machine
end

