-- ==== Sys2Proof/Machine/Operands.lean ====
section
/-! DEFINITION. The operand forms and value conversions: packed colour (30_encoding R61), the four channels (10_state R11),
pixel index against LENGTH (20_memory R41), the item word (30_encoding R62), zero extension (00_scope R7). -/

namespace Sys2Proof.Machine

/-- The packed colour `red<<24 | green<<16 | blue<<8 | white` (R61). -/
def pack (c : Color) : Word := c.red ++ c.green ++ c.blue ++ c.white

/-- The Color of a packed colour (R61). -/
def unpack (x : Word) : Color where
  red := x.extractLsb' 24 8
  green := x.extractLsb' 16 8
  blue := x.extractLsb' 8 8
  white := x.extractLsb' 0 8

/-- The Color of four channel immediates (R66). -/
def rgbw (r g b w : Byte) : Color := { red := r, green := g, blue := b, white := w }

/-- The names of the channels of a Color (10_state R11). -/
inductive Channel where
  | red | green | blue | white
  deriving DecidableEq, Repr

/-- The value of one channel. -/
def chanGet (ch : Channel) (c : Color) : Byte :=
  match ch with
  | .red => c.red
  | .green => c.green
  | .blue => c.blue
  | .white => c.white

/-- A Color with one channel replaced and the other three kept (40_color §4). -/
def chanSet (ch : Channel) (v : Byte) (c : Color) : Color :=
  match ch with
  | .red => { c with red := v }
  | .green => { c with green := v }
  | .blue => { c with blue := v }
  | .white => { c with white := v }

/-- `zext_32` of a channel value (00_scope R7, 30_encoding R69). -/
def zext32 (v : Byte) : Word := v.setWidth 32

/-- A pixel index is in range when `idx < LENGTH`, compared unsigned, never reduced (20_memory R41). -/
def idxInRange (idx : PixIdx) (length : Nat) : Bool := decide (idx.toNat < length)

/-- The word form of an item: `level1, duration1, level0, duration0` from bit 31 down (30_encoding R62). -/
def itemWord (it : Item) : Word := it.level1 ++ it.duration1 ++ it.level0 ++ it.duration0

end Sys2Proof.Machine
end

