-- ==== Sys2Proof/Machine/Flags.lean ====
section
/-! DEFINITION. The flags of the hardware (10_state R19: three, and no others) and the STATUS word (30_encoding R70). -/

namespace Sys2Proof.Machine

/-- The code of PH in the STATUS word (30_encoding R70). -/
def phCode : Ph → BitVec 2
  | .idle => 0
  | .wait => 1
  | .enc => 2
  | .tx => 3

/-- A flag as one bit. -/
def flagBit (b : Bool) : BitVec 1 := BitVec.ofBool b

/-- `{26'b0, PH[1:0], 1'b0, INSTALL_ERR, CFG_ERR, ALLOC_FAIL}` (41_strip R106). -/
def statusWord (ph : Ph) (f : Status) : Word :=
  (0 : BitVec 26) ++ phCode ph ++ (0 : BitVec 1) ++ flagBit f.installErr ++ flagBit f.cfgErr ++ flagBit f.allocFail

/-- No flag: what a construction starts from (70_reset R170). -/
def noFlags : Status := { allocFail := false, cfgErr := false, installErr := false }

/-- The flag an error sets (60_exceptions R140): OutOfRangeIndex has none. -/
def setFlag (e : ErrorCause) (f : Status) : Status :=
  match e with
  | .allocationFailure _ => { f with allocFail := true }
  | .peripheralConfigError => { f with cfgErr := true }
  | .peripheralInstallError => { f with installErr := true }
  | .outOfRangeIndex => f

end Sys2Proof.Machine
end

