-- ==== Sys2Proof/Machine/Ops.lean ====
section
/-! DEFINITION. The named operations over the state: the two memories, the Color registers, the response port, the
diagnostic stream, raising an error (60_exceptions R145: what this hardware has in place of a trap), and the
acceptance of a command (41_strip R100). -/

namespace Sys2Proof.Machine

/-! The canonical cells of a memory: indices strictly rising. -/

/-- The entry listed at an index. -/
def cellGet {α : Type} (a : Nat) : Cells α → Option α
  | [] => none
  | (b, u) :: m => if a = b then some u else cellGet a m

/-- The cells with an entry put at an index. -/
def cellSet {α : Type} (a : Nat) (v : α) : Cells α → Cells α
  | [] => [(a, v)]
  | (b, u) :: m =>
    if a < b then (a, v) :: (b, u) :: m
    else if a = b then (a, v) :: m
    else (b, u) :: cellSet a v m

/-- The cells with no entry at an index. -/
def cellErase {α : Type} (a : Nat) (m : Cells α) : Cells α := m.filter (fun e => decide (e.1 ≠ a))

/-- Every index is at least `lo`, and they rise strictly. -/
def cellsRise {α : Type} (lo : Nat) : Cells α → Bool
  | [] => true
  | (a, _) :: m => decide (lo ≤ a) && cellsRise (a + 1) m

/-- Consecutive cells from index `j` on that hold the given entries. -/
def cellsFrom {α : Type} (j : Nat) : List α → Cells α
  | [] => []
  | v :: vs => (j, v) :: cellsFrom (j + 1) vs

/-! PIX (10_state R13): an index that is not listed reads (0,0,0,0). -/

/-- `MemRead(PIX, i)` on the cells. -/
def pixRead (i : Nat) (m : Cells Color) : Color := (cellGet i m).getD black

/-- `MemWrite(PIX, i, c)` on the cells; (0,0,0,0) is written by listing nothing. -/
def pixWrite (i : Nat) (c : Color) (m : Cells Color) : Cells Color :=
  if c = black then cellErase i m else cellSet i c m

/-- (0,0,0,0) written to every index below `n` (41_strip R103). -/
def pixClear (n : Nat) (m : Cells Color) : Cells Color := m.filter (fun e => decide (n ≤ e.1))

/-- The cells that hold `f i` at every index below `n`. -/
def pixFill (n : Nat) (f : Nat → Color) : Cells Color :=
  (List.range n).filterMap (fun i => if f i = black then none else some (i, f i))

/-- PIX is in canonical form: rising, below LENGTH, no entry that reads as an unlisted one. -/
def pixWf (n : Nat) (m : Cells Color) : Bool :=
  cellsRise 0 m && m.all (fun e => decide (e.1 < n) && decide (e.2 ≠ black))

/-! WAVE (10_state R15): an index that is not listed has no value (log 5). -/

/-- Entries `j`, `j+1`, ... of WAVE, `n` of them, if all are listed (20_memory R52). -/
def waveRead (j : Nat) : Nat → Cells Item → Option (List Item)
  | 0, _ => some []
  | _ + 1, [] => none
  | n + 1, (a, it) :: m => if a = j then (waveRead (j + 1) n m).map (it :: ·) else none

/-- WAVE is in canonical form: rising, below NITEMS. -/
def waveWf (n : Nat) (m : Cells Item) : Bool :=
  cellsRise 0 m && m.all (fun e => decide (e.1 < n))

/-- `NITEMS = LENGTH * 24` (00_scope R5). -/
def nitems (c : InstanceConfig) : Nat := c.length * 24

/-- Both memories are in canonical form. -/
def Memory.wf (s : State) : Bool := pixWf s.cfg.length s.pix && waveWf (nitems s.cfg) s.wave

/-- `PIX[i]` (00_scope R7). -/
def pixel (i : Nat) (s : State) : Color := pixRead i s.pix

/-- `WAVE[j]` (00_scope R7): none before the first MKWAVE. -/
def waveItem (j : Nat) (s : State) : Option Item := cellGet j s.wave

/-- `PIX[i] <- c` (00_scope R7). -/
def putPixel (i : Nat) (c : Color) (s : State) : State := { s with pix := pixWrite i c s.pix }

/-! The Color registers (10_state R12). -/

/-- A register of the register file. -/
def regsGet (r : CReg) (f : ColorRegs) : Color :=
  match r with
  | .c0 => f.c0
  | .c1 => f.c1
  | .c2 => f.c2
  | .c3 => f.c3

/-- The register file with one register replaced. -/
def regsSet (r : CReg) (c : Color) (f : ColorRegs) : ColorRegs :=
  match r with
  | .c0 => { f with c0 := c }
  | .c1 => { f with c1 := c }
  | .c2 => { f with c2 := c }
  | .c3 => { f with c3 := c }

/-- `cr[r]` (00_scope R7). -/
def getReg (r : CReg) (s : State) : Color := regsGet r s.cr

/-- `cr[r] <- c` (00_scope R7). -/
def setReg (r : CReg) (c : Color) (s : State) : State := { s with cr := regsSet r c s.cr }

/-- `PH <- p` (00_scope R7). -/
def setPhase (p : Ph) (s : State) : State := { s with ph := p }

/-! What the outside sees. -/

/-- `respond(v)` (30_encoding R69). -/
def respond (v : Word) (s : State) : State :=
  { s with obs := { s.obs with responses := s.obs.responses ++ [v] } }

/-- `diag(e)` (60_exceptions R157). -/
def emitDiag (e : DiagEvent) (s : State) : State :=
  { s with obs := { s.obs with diag := s.obs.diag ++ [e] } }

/-- A call on the peripheral is made (60_exceptions R152). -/
def recordCall (c : PeriphCall) (s : State) : State :=
  { s with obs := { s.obs with calls := s.obs.calls ++ [c] } }

/-- The diagnostic event of an error (60_exceptions R141 to R144). -/
def errorEvents : ErrorCause → List DiagEvent
  | .allocationFailure which => [.allocFail which]
  | .peripheralConfigError => [.cfgErr]
  | .peripheralInstallError => [.installErr]
  | .outOfRangeIndex => []

/-- `raise <Error>` (60_exceptions R145): set the error's flag, emit its diagnostic, continue. -/
def raise (e : ErrorCause) (s : State) : State :=
  { s with
    status := setFlag e s.status
    obs := { s.obs with diag := s.obs.diag ++ errorEvents e } }

/-! Acceptance (41_strip R100). -/

/-- The rows of the acceptance table. -/
inductive CmdClass where
  | color | pixel | showing | destroying | status
  deriving DecidableEq, Repr

/-- The column "needs `ALLOC_FAIL = 0`". -/
def needsAlloc : CmdClass → Bool
  | .color => true
  | .pixel => true
  | .showing => true
  | .destroying => false
  | .status => false

/-- The column "needs `CFG_ERR = 0` and `INSTALL_ERR = 0`". -/
def needsPeripheral : CmdClass → Bool
  | .color => false
  | .pixel => false
  | .showing => true
  | .destroying => false
  | .status => false

/-- The column "needs `PH = IDLE`". -/
def needsIdle : CmdClass → Bool
  | .color => false
  | .pixel => false
  | .showing => false
  | .destroying => true
  | .status => false

/-- The port is free: no SHOW is in progress (R100). -/
def portFree (s : State) : Bool := decide (s.ph = .idle) || decide (s.ph = .tx)

/-- Why a command of a class is not accepted; nothing if it is (R100; the order of the tests is log 18). -/
def refusalOf (c : CmdClass) (s : State) : Option Refusal :=
  if s.live = false then some .notLive
  else if portFree s = false then some .portHeld
  else if needsAlloc c && s.status.allocFail then some .allocFailed
  else if needsPeripheral c && (s.status.cfgErr || s.status.installErr) then some .peripheralNotReady
  else if needsIdle c && decide (s.ph ≠ .idle) then some .destroyInFlight
  else none

/-- The outcome of a command that must be accepted first. -/
def whenAccepted (c : CmdClass) (s : State) (out : Host.Outcome State Fault Refusal) :
    Host.Outcome State Fault Refusal :=
  match refusalOf c s with
  | some r => .refused r
  | none => out

end Sys2Proof.Machine
end

