-- ==== Sys2Proof/Machine/Color.lean ====
section
/-! DEFINITION. The twelve Color commands (40_color R80 to R92, R95): each acts on Color registers and the response port
only, under the acceptance row of Color commands. -/

namespace Sys2Proof.Machine

/-- A Color command that leaves a Color in a register (R80 e). -/
def colorWrite (cd : CReg) (c : Color) (s : State) : Host.Outcome State Fault Refusal :=
  whenAccepted .color s (.next (setReg cd c s))

/-- A Color command that answers a response word and writes no state (R84, R89 to R92). -/
def colorAnswer (v : Word) (s : State) : Host.Outcome State Fault Refusal :=
  whenAccepted .color s (.next (respond v s))

/-- CSETRGBW (R81): all four channels overwritten. -/
def execCsetrgbw (cd : CReg) (r g b w : Byte) (s : State) : Host.Outcome State Fault Refusal :=
  colorWrite cd (rgbw r g b w) s

/-- CSETCOLOR (R82): `cr[cd] <- cr[cs]`. -/
def execCsetcolor (cd cs : CReg) (s : State) : Host.Outcome State Fault Refusal :=
  colorWrite cd (getReg cs s) s

/-- CSET32 (R83): `cr[cd] <- unpack(packed)`. -/
def execCset32 (cd : CReg) (packed : Word) (s : State) : Host.Outcome State Fault Refusal :=
  colorWrite cd (unpack packed) s

/-- CGET32 (R84): `respond(pack(cr[cd]))`. -/
def execCget32 (cd : CReg) (s : State) : Host.Outcome State Fault Refusal :=
  colorAnswer (pack (getReg cd s)) s

/-- CSETR (R85): red written, the other channels kept. -/
def execCsetr (cd : CReg) (v : Byte) (s : State) : Host.Outcome State Fault Refusal :=
  colorWrite cd (chanSet .red v (getReg cd s)) s

/-- CSETG (R86): green written, the other channels kept. -/
def execCsetg (cd : CReg) (v : Byte) (s : State) : Host.Outcome State Fault Refusal :=
  colorWrite cd (chanSet .green v (getReg cd s)) s

/-- CSETB (R87): blue written, the other channels kept. -/
def execCsetb (cd : CReg) (v : Byte) (s : State) : Host.Outcome State Fault Refusal :=
  colorWrite cd (chanSet .blue v (getReg cd s)) s

/-- CSETW (R88): white written, the other channels kept. -/
def execCsetw (cd : CReg) (v : Byte) (s : State) : Host.Outcome State Fault Refusal :=
  colorWrite cd (chanSet .white v (getReg cd s)) s

/-- CGETR (R89): `respond(zext_32(cr[cd].red))`. -/
def execCgetr (cd : CReg) (s : State) : Host.Outcome State Fault Refusal :=
  colorAnswer (zext32 (chanGet .red (getReg cd s))) s

/-- CGETG (R90): `respond(zext_32(cr[cd].green))`. -/
def execCgetg (cd : CReg) (s : State) : Host.Outcome State Fault Refusal :=
  colorAnswer (zext32 (chanGet .green (getReg cd s))) s

/-- CGETB (R91): `respond(zext_32(cr[cd].blue))`. -/
def execCgetb (cd : CReg) (s : State) : Host.Outcome State Fault Refusal :=
  colorAnswer (zext32 (chanGet .blue (getReg cd s))) s

/-- CGETW (R92): `respond(zext_32(cr[cd].white))`. -/
def execCgetw (cd : CReg) (s : State) : Host.Outcome State Fault Refusal :=
  colorAnswer (zext32 (chanGet .white (getReg cd s))) s

end Sys2Proof.Machine
end

