-- ==== Sys2Proof/Machine/Pixel.lean ====
section
/-! DEFINITION. The pixel commands (41_strip R101 to R103, R108, R110): they write PIX only. -/

namespace Sys2Proof.Machine

/-- One pixel written if its index is in range; OutOfRangeIndex, which does nothing, otherwise (20_memory R41,
60_exceptions R144). -/
def pixelStore (idx : PixIdx) (c : Color) (s : State) : State :=
  if idxInRange idx s.cfg.length then putPixel idx.toNat c s else raise .outOfRangeIndex s

/-- SETPIXC (R101): the Color of a register, all four channels. -/
def execSetpixc (idx : PixIdx) (cs : CReg) (s : State) : Host.Outcome State Fault Refusal :=
  whenAccepted .pixel s (.next (pixelStore idx (getReg cs s) s))

/-- SETPIXRGBW (R102): the Color of four immediates. -/
def execSetpixrgbw (idx : PixIdx) (r g b w : Byte) (s : State) : Host.Outcome State Fault Refusal :=
  whenAccepted .pixel s (.next (pixelStore idx (rgbw r g b w) s))

/-- CLEAR (R103): (0,0,0,0) to every pixel. -/
def execClear (s : State) : Host.Outcome State Fault Refusal :=
  whenAccepted .pixel s (.next { s with pix := pixClear s.cfg.length s.pix })

end Sys2Proof.Machine
end

