-- ==== Sys2Proof/Machine/Encoder.lean ====
section
/-! DEFINITION. The protocol constants (10_state R16) and MKWAVE (42_encoder R120): the line code of the logical frame. -/

namespace Sys2Proof.Machine

/-- `BPP` (10_state R16). -/
def bpp : Nat := 24

/-- `CHORDER`: green, then red, then blue; white is not sent (10_state R16, 42_encoder R122). -/
def chorder : List Channel := [.green, .red, .blue]

/-- `BITORDER`: most significant bit first, as bit numbers of a channel byte (10_state R16). -/
def bitorder : List Nat := [7, 6, 5, 4, 3, 2, 1, 0]

/-- `ZERO_ITEM = (1, T0H, 0, T0L)` (30_encoding R63). -/
def zeroItem (c : InstanceConfig) : Item :=
  { level0 := 1, duration0 := c.t0h, level1 := 0, duration1 := c.t0l }

/-- `ONE_ITEM = (1, T1H, 0, T1L)` (30_encoding R63). -/
def oneItem (c : InstanceConfig) : Item :=
  { level0 := 1, duration0 := c.t1h, level1 := 0, duration1 := c.t1l }

/-- The item of a bit (42_encoder R123). -/
def itemOf (c : InstanceConfig) (bit : Bool) : Item := if bit then oneItem c else zeroItem c

/-- The byte of a channel taken from the packed colour: bits 23:16 green, 31:24 red, 15:8 blue, 7:0 white (R122). -/
def packedByte (ch : Channel) (x : Word) : Byte :=
  match ch with
  | .red => x.extractLsb' 24 8
  | .green => x.extractLsb' 16 8
  | .blue => x.extractLsb' 8 8
  | .white => x.extractLsb' 0 8

/-- The items of one byte, most significant bit first (R120). -/
def encodeByte (c : InstanceConfig) (v : Byte) : List Item :=
  bitorder.map (fun b => itemOf c (v.getLsbD b))

/-- The items of one pixel, from its packed colour, in channel order (R120). -/
def encodePixel (c : InstanceConfig) (col : Color) : List Item :=
  chorder.flatMap (fun ch => encodeByte c (packedByte ch (pack col)))

/-- `encode(PIX)` (R121): the items of the frame, pixel 0 first. -/
def encodeFrame (c : InstanceConfig) (pix : Cells Color) : List Item :=
  (List.range c.length).flatMap (fun p => encodePixel c (pixRead p pix))

/-- MKWAVE (R120): every entry of WAVE is rewritten from PIX, so nothing of the previous frame survives. -/
def mkwave (s : State) : State := { s with wave := cellsFrom 0 (encodeFrame s.cfg s.pix) }

/-! The loops of R120 as they are written there: `j` counts the writes; `mkwaveLoop` is the reference `mkwave` answers to. -/

/-- The write of one bit: `MemWrite(WAVE, j, item)`, `j <- j + 1`. -/
def loopBit (c : InstanceConfig) (v : Byte) (acc : Nat × Cells Item) (k : Nat) : Nat × Cells Item :=
  (acc.1 + 1, cellSet acc.1 (itemOf c (v.getLsbD (7 - k))) acc.2)

/-- The loop over `k` in 0 .. 7. -/
def loopByte (c : InstanceConfig) (x : Word) (acc : Nat × Cells Item) (ch : Channel) : Nat × Cells Item :=
  (List.range 8).foldl (loopBit c (packedByte ch x)) acc

/-- The loop over the three channels in the mandated order. -/
def loopPixel (c : InstanceConfig) (pix : Cells Color) (acc : Nat × Cells Item) (p : Nat) : Nat × Cells Item :=
  chorder.foldl (loopByte c (pack (pixRead p pix))) acc

/-- The loop over `p` in 0 .. LENGTH-1, from `j = 0`: the final `j` and the final WAVE. -/
def mkwaveLoop (c : InstanceConfig) (pix : Cells Color) (wave : Cells Item) : Nat × Cells Item :=
  (List.range c.length).foldl (loopPixel c pix) (0, wave)

/-- The two phases of an item in the order they are emitted (10_state R14, 42_encoder R129). -/
def itemPhases (it : Item) : List Phase :=
  [{ level := it.level0, duration := it.duration0 }, { level := it.level1, duration := it.duration1 }]

/-- The `2 * NITEMS` phases of a frame (R129). -/
def framePhases (items : List Item) : List Phase := items.flatMap itemPhases

/-- The duration of a frame in ticks (R133, informative). -/
def frameTicks (items : List Item) : Nat := ((framePhases items).map (fun p => p.duration.toNat)).sum

end Sys2Proof.Machine
end

