-- ==== Sys2Proof/Machine/Peripheral.lean ====
section
/-! DEFINITION. The pulse peripheral behind its four calls (60_exceptions R152 to R155) and as an agent: emission and
completion (42_encoder R128 to R131). -/

namespace Sys2Proof.Machine

/-- The next answer of a queue; a queue that has run out answers Ok (log 12). -/
def nextAnswer : List Result → Result
  | [] => .ok
  | r :: _ => r

/-- `configure` (R153): the arguments the block passes; on Ok the output pin is driven low, on Err the error is raised. -/
def configure (res : Result) (s : State) : State :=
  let s := recordCall (.configure s.cfg.pin s.cfg.channel s.cfg.clkdiv .oneShot 0 true false) s
  match res with
  | .ok => { s with line := 0 }
  | .err => raise .peripheralConfigError s

/-- `install` (R152): its one argument; on Err the error is raised (R143). -/
def install (res : Result) (s : State) : State :=
  let s := recordCall (.install s.cfg.channel) s
  match res with
  | .ok => s
  | .err => raise .peripheralInstallError s

/-- The call of `waitIdle` is made (R152); it has not returned yet. -/
def callWaitIdle (s : State) : State := recordCall (.waitIdle s.cfg.channel s.cfg.waitTimeout) s

/-- `waitIdle` has returned: its answer is used up. It changes nothing else (R154). -/
def consumeWaitAnswer (s : State) : State :=
  { s with env := { s.env with waitAnswers := s.env.waitAnswers.tail } }

/-- An accepted `transmit` (42_encoder R128): BUSY is set and the frame is in flight, nothing of it emitted yet. -/
def handOff (items : List Item) (s : State) : State :=
  { s with
    busy := true
    inflight := items
    emitPos := 0
    obs := { s.obs with frames := s.obs.frames ++ [items] } }

/-- The call of `transmit(CHANNEL, WAVE, NITEMS, blocking = false)` is made and its answer used up (R152). -/
def callTransmit (s : State) : State :=
  let s := recordCall (.transmit s.cfg.channel (nitems s.cfg) false) s
  { s with env := { s.env with txAnswers := s.env.txAnswers.tail } }

/-- `transmit` (R155, 42_encoder R128): the snapshot of WAVE goes in flight (20_memory R52), or a fault (R149, 93 U9). -/
def transmit (s : State) : Host.Outcome State Fault Refusal :=
  if s.busy then .fault .transmitWhileBusy
  else if nitems s.cfg = 0 ∧ s.cfg.zeroCountTxOk = false then .fault .zeroCountRejected
  else
    match nextAnswer s.env.txAnswers with
    | .err => .fault .transmitError
    | .ok =>
      match waveRead 0 (nitems s.cfg) s.wave with
      | none => .fault .waveUnwritten
      | some items => .next (handOff items (callTransmit s))

/-- The phase of a frame that is driven after `n` others: item `n / 2`, its first or second half (R129). -/
def phaseAt (items : List Item) (n : Nat) : Option Phase :=
  match items[n / 2]? with
  | none => none
  | some it =>
    if n % 2 = 0 then some { level := it.level0, duration := it.duration0 }
    else some { level := it.level1, duration := it.duration1 }

/-- The peripheral drives the next phase on LINE (R129). -/
def drivePhase (p : Phase) (s : State) : State :=
  { s with
    line := p.level
    emitPos := s.emitPos + 1
    obs := { s.obs with phases := s.obs.phases ++ [p] } }

/-- What the completion event makes of PH (R130, 41_strip R107): TX becomes IDLE, WAIT stays. -/
def phAfterCompletion : Ph → Ph
  | .idle => .idle
  | .wait => .wait
  | .enc => .enc
  | .tx => .idle

/-- The completion event (R130): BUSY cleared, INFLIGHT empty, LINE at its idle level (R129). -/
def complete (s : State) : State :=
  { s with
    busy := false
    inflight := []
    emitPos := 0
    line := 0
    ph := phAfterCompletion s.ph }

/-- A turn of the peripheral: the next phase of the frame in flight, or the completion event after the last one; with
nothing in flight it does nothing. -/
def peripheralTurn (s : State) : State :=
  if s.busy then
    match phaseAt s.inflight s.emitPos with
    | some p => drivePhase p s
    | none => complete s
  else s

end Sys2Proof.Machine
end

