-- ==== Sys2Proof/Machine/Construct.lean ====
section
/-! DEFINITION. Construction, the reset sequence of the hardware (70_reset R170, R171, R184). -/

namespace Sys2Proof.Machine

/-- The configuration taken, flags cleared, DIAG emptied (R170). -/
def beginConstruct (a : ConstructArgs) (s : State) : State :=
  { s with cfg := a.cfg, status := noFlags, obs := { s.obs with diag := [] } }

/-- Step 1 (R170): the pixel array, every entry the default Color. -/
def allocPixels (ok : Bool) (s : State) : State :=
  if ok then { s with pix := [] } else raise (.allocationFailure .pixels) s

/-- Step 2 (R170): the waveform array, contents unspecified. -/
def allocWaveform (ok : Bool) (s : State) : State :=
  let s := { s with wave := [] }
  if ok then s else raise (.allocationFailure .waveform) s

/-- The end of the sequence (R170): registers at the default Color, PH = IDLE, LIVE = 1. -/
def finishConstruct (s : State) : State :=
  { s with cr := { c0 := black, c1 := black, c2 := black, c3 := black }, ph := .idle, live := true }

/-- The register file with free contents (log 7, 8). -/
def freeRegs (d : Nat) : ColorRegs where
  c0 := Config.freeReg d .c0
  c1 := Config.freeReg d .c1
  c2 := Config.freeReg d .c2
  c3 := Config.freeReg d .c3

/-- The contents of `cr`, `PIX` and `WAVE` are unspecified from here on (R171, 41_strip R105): free values, WAVE unlisted. -/
def loseContents (s : State) : State :=
  { s with
    cr := freeRegs s.draw
    pix := pixFill s.cfg.length (Config.freePixel s.draw)
    wave := []
    draw := s.draw + 1 }

/-- BUSY, INFLIGHT and LINE are unspecified, because the peripheral is not known to be configured (R171, 93 U15). -/
def losePeripheral (s : State) : State :=
  { s with
    busy := Config.freeBusy s.draw
    inflight := Config.freeInflight s.draw
    line := Config.freeLine s.draw
    emitPos := 0
    draw := s.draw + 1 }

/-- The peripheral after a clean set-up: idle, nothing in flight, line low (10_state R22, 92 D29). -/
def idlePeripheral (s : State) : State :=
  { s with busy := false, inflight := [], line := 0, emitPos := 0 }

/-- What R171 leaves unspecified after a failed allocation. -/
def settleMemory (s : State) : State := if s.status.allocFail then loseContents s else s

/-- What R171 says of the peripheral's side. -/
def settlePeripheral (s : State) : State :=
  if s.status.cfgErr || s.status.installErr then losePeripheral s else idlePeripheral s

/-- The construction sequence (R170): no step is skipped because an earlier one failed (60_exceptions R148). -/
def construct (a : ConstructArgs) (s : State) : State :=
  let s := beginConstruct a s
  let s := allocPixels a.allocPixOk s
  let s := allocWaveform a.allocWaveOk s
  let s := configure a.cfgResult s
  let s := install a.installResult s
  let s := finishConstruct s
  settlePeripheral (settleMemory s)

/-- A construction presented by the host: only with LIVE = 0 (R184) and a legal configuration (93 U13). -/
def hostConstruct (a : ConstructArgs) (s : State) : Host.Outcome State Fault Refusal :=
  if s.live then .refused .constructWhileLive
  else if a.cfg.wellFormed = false then .refused .illegalConfig
  else .next (construct a s)

end Sys2Proof.Machine
end

