-- ==== Sys2Proof/Machine/Strip.lean ====
section
/-! DEFINITION. SHOW with the phase machine (41_strip R104, R107, R109), DESTROY (R105) and RDSTAT (R106). -/

namespace Sys2Proof.Machine

/-- SHOW in PH = ENC (R104): MKWAVE, the frame's diagnostic, the hand-off, and PH becomes TX. -/
def showEncode (s : State) : Host.Outcome State Fault Refusal :=
  match transmit (emitDiag (.frameBits (nitems s.cfg)) (mkwave s)) with
  | .next t => .next (setPhase .tx t)
  | .fault r => .fault r
  | .refused r => .refused r

/-- A finite `WAIT_TIMEOUT` expires now: `waitIdle` would answer Err with BUSY = 1 (60_exceptions R151, 93 U11; log 15). -/
def waitTimesOut (s : State) : Bool :=
  match s.cfg.waitTimeout with
  | .forever => false
  | .finite _ => decide (nextAnswer s.env.waitAnswers = .err)

/-- SHOW in PH = WAIT (R104, R107): while BUSY = 1 `waitIdle` does not return and SHOW stays there (R177), but for the
timeout path of a finite timeout, which has no meaning; with BUSY = 0 it returns its answer, and on Ok SHOW goes on in
PH = ENC. -/
def showWait (s : State) : Host.Outcome State Fault Refusal :=
  if s.busy then
    if waitTimesOut s then .refused .finiteTimeout else .next s
  else
    match nextAnswer s.env.waitAnswers with
    | .err => .fault .waitIdleError
    | .ok => showEncode (setPhase .enc (consumeWaitAnswer s))

/-- SHOW (R104): `waitIdle` is called in PH = WAIT, and SHOW goes as far as the peripheral lets it. -/
def execShow (s : State) : Host.Outcome State Fault Refusal :=
  whenAccepted .showing s (showWait (callWaitIdle (setPhase .wait s)))

/-- DESTROY (R105): LIVE = 0, contents unspecified; no call on the peripheral. -/
def execDestroy (s : State) : Host.Outcome State Fault Refusal :=
  whenAccepted .destroying s (.next (loseContents { s with live := false }))

/-- RDSTAT (R106): the STATUS word on the response port. -/
def execRdstat (s : State) : Host.Outcome State Fault Refusal :=
  whenAccepted .status s (.next (respond (statusWord s.ph s.status) s))

end Sys2Proof.Machine
end

