-- ==== Sys2Proof/Machine/Dispatch.lean ====
section
/-! DEFINITION. One arm for each command (30_encoding R67). -/

namespace Sys2Proof.Machine

def exec (i : Instr) (s : State) : Host.Outcome State Fault Refusal :=
  match i with
  | .csetrgbw cd r g b w => Sys2Proof.Machine.execCsetrgbw cd r g b w s
  | .csetcolor cd cs => Sys2Proof.Machine.execCsetcolor cd cs s
  | .cset32 cd packed => Sys2Proof.Machine.execCset32 cd packed s
  | .cget32 cd => Sys2Proof.Machine.execCget32 cd s
  | .csetr cd v => Sys2Proof.Machine.execCsetr cd v s
  | .csetg cd v => Sys2Proof.Machine.execCsetg cd v s
  | .csetb cd v => Sys2Proof.Machine.execCsetb cd v s
  | .csetw cd v => Sys2Proof.Machine.execCsetw cd v s
  | .cgetr cd => Sys2Proof.Machine.execCgetr cd s
  | .cgetg cd => Sys2Proof.Machine.execCgetg cd s
  | .cgetb cd => Sys2Proof.Machine.execCgetb cd s
  | .cgetw cd => Sys2Proof.Machine.execCgetw cd s
  | .setpixc idx cs => Sys2Proof.Machine.execSetpixc idx cs s
  | .setpixrgbw idx r g b w => Sys2Proof.Machine.execSetpixrgbw idx r g b w s
  | .clear => Sys2Proof.Machine.execClear s
  | .showStrip => Sys2Proof.Machine.execShow s
  | .destroy => Sys2Proof.Machine.execDestroy s
  | .rdstat => Sys2Proof.Machine.execRdstat s

end Sys2Proof.Machine
end

