-- ==== Sys2Proof/Machine/Port.lean ====
section
/-! DEFINITION. The command port and the agents' turns (41_strip R100, R107; 00_scope R9; 92 D1): what a step calls. -/

namespace Sys2Proof.Machine

/-- A word on the command port: decoded and executed, or refused as illegal (30_encoding R68). -/
def hostCommand (w : CmdWord) (s : State) : Host.Outcome State Fault Refusal :=
  match decode w with
  | .ok i => exec i s
  | .error e => .refused (.illegalWord e)

/-- What the host presents next. -/
def hostInput (x : HostInput) (s : State) : Host.Outcome State Fault Refusal :=
  match x with
  | .command w => hostCommand w s
  | .construct a => hostConstruct a s

/-- The block with a free port (R100): it takes the next input, or has nothing to do. -/
def acceptNext (s : State) : Host.Outcome State Fault Refusal :=
  match s.env.port with
  | [] => .next s
  | x :: rest => hostInput x { s with env := { s.env with port := rest } }

/-- A turn of the block (R107): a SHOW in progress holds the port and goes on; otherwise the next input is taken. -/
def blockTurn (s : State) : Host.Outcome State Fault Refusal :=
  match s.ph with
  | .idle => acceptNext s
  | .wait => showWait s
  | .enc => showEncode s
  | .tx => acceptNext s

/-- The block can change the state by a turn of its own. -/
def blockCanMove (s : State) : Bool :=
  match s.ph with
  | .idle => !s.env.port.isEmpty
  | .wait => !s.busy
  | .enc => true
  | .tx => !s.env.port.isEmpty

/-- Whose turn it is: as the schedule says; when it has run out, the block's if it can move, else the peripheral's
(log 1, 2). -/
def turnOf (s : State) : Agent :=
  match s.env.sched with
  | a :: _ => a
  | [] => if blockCanMove s then .block else .peripheral

/-- The turn is taken off the schedule. -/
def endTurn (s : State) : State := { s with env := { s.env with sched := s.env.sched.tail } }

/-- One turn of an agent. -/
def takeTurn (a : Agent) (s : State) : Host.Outcome State Fault Refusal :=
  match a with
  | .block => blockTurn s
  | .peripheral => .next (peripheralTurn s)

/-- The host presents a word at the head of the port and the next turn is the block's (log 3). -/
def presentWord (w : CmdWord) (s : State) : State :=
  { s with env := { s.env with port := .command w :: s.env.port, sched := .block :: s.env.sched } }

end Sys2Proof.Machine
end

