-- ==== Sys2Proof/Machine/Step.lean ====
section
/-! DEFINITION. One step of the machine: one command (or the next part of a SHOW that waits), one construction, or one
peripheral event (92 D1). -/

namespace Sys2Proof.Machine

/-- The agent whose turn it is moves. -/
def step (s : State) : Host.Outcome State Fault Refusal := takeTurn (turnOf s) (endTurn s)

/-- The state with one more command presented so that the next step takes it, if the port is free (log 3). -/
def State.withFetchWord (s : State) (nbits w : Nat) : State :=
  presentWord (BitVec.ofNat 64 (w % 2 ^ nbits)) s

end Sys2Proof.Machine
end

