-- ==== Sys2Proof/Machine/Assembler.lean ====
section
/-! DEFINITION. The text of a listing (30_encoding R71): a line is a mnemonic in upper case and operands separated by
commas, `;` starts a comment, `.construct pin, length, channel` states the construction arguments. Layout the rule
does not fix (spaces around operands, blank lines) is log 27. -/

namespace Sys2Proof.Machine

/-- An operand as written: a Color register, a number, or the name of an opaque identifier. -/
inductive Operand where
  | reg (n : Nat)
  | num (n : Nat)
  | name (cs : List Char)
  deriving DecidableEq, Repr

/-- A line of a listing. The pin and the channel are operands of any form (log 27). -/
inductive AsmLine where
  | blank
  | construct (pin : Operand) (length : Nat) (channel : Operand)
  | command (a : Asm)
  deriving DecidableEq, Repr

/-- A character that separates words. -/
def isSpace (c : Char) : Bool := c == ' ' || c == '\t'

/-- The characters with no space at either end. -/
def trim (cs : List Char) : List Char := ((cs.dropWhile isSpace).reverse.dropWhile isSpace).reverse

/-- The characters before a comment. -/
def dropComment (cs : List Char) : List Char := cs.takeWhile (fun c => c != ';')

/-- The pieces between commas. -/
def splitCommas : List Char → List (List Char)
  | [] => [[]]
  | c :: cs =>
    if c = ',' then [] :: splitCommas cs
    else
      match splitCommas cs with
      | [] => [[c]]
      | p :: ps => (c :: p) :: ps

/-- The value of a digit in a base up to sixteen. -/
def digitValue (base : Nat) (c : Char) : Option Nat :=
  let n := c.toNat
  let v :=
    if 48 ≤ n ∧ n ≤ 57 then n - 48
    else if 65 ≤ n ∧ n ≤ 70 then n - 55
    else if 97 ≤ n ∧ n ≤ 102 then n - 87
    else base
  if v < base then some v else none

/-- The number written in a base, with the value read so far. -/
def digits (base acc : Nat) : List Char → Option Nat
  | [] => some acc
  | c :: cs =>
    match digitValue base c with
    | some v => digits base (acc * base + v) cs
    | none => none

/-- A number, decimal or `0x` hexadecimal (R71). -/
def number : List Char → Option Nat
  | [] => none
  | '0' :: 'x' :: c :: cs => digits 16 0 (c :: cs)
  | c :: cs => digits 10 0 (c :: cs)

/-- The decimal digits, each at its value. -/
def decimalDigits : List Char := ['0', '1', '2', '3', '4', '5', '6', '7', '8', '9']

/-- The hexadecimal digits as the spec's listings write them, each at its value. -/
def hexDigits : List Char := decimalDigits ++ ['A', 'B', 'C', 'D', 'E', 'F']

/-- The letters of the hexadecimal digits in lower case, which `number` reads too (log 27). -/
def lowerHexDigits : List Char := ['a', 'b', 'c', 'd', 'e', 'f']

/-- The number that a text writes in the base whose digits are given: what `number` is held against. -/
def valueIn (ds cs : List Char) : Nat := cs.foldl (fun n c => n * ds.length + ds.idxOf c) 0

/-- An operand: `c` and a decimal number is a register, a number is a number, anything else is a name. -/
def operand (cs : List Char) : Option Operand :=
  match cs with
  | [] => none
  | 'c' :: d :: ds =>
    match digits 10 0 (d :: ds) with
    | some n => some (.reg n)
    | none => some (.name cs)
  | _ =>
    match number cs with
    | some n => some (.num n)
    | none => some (.name cs)

/-- All operands of a line; none if one is empty. -/
def operands (cs : List Char) : Option (List Operand) :=
  if cs = [] then some [] else (splitCommas cs).mapM (fun p => operand (trim p))

/-- The command of a mnemonic and its operands (R67, R71, R72). -/
def asmOf (m : List Char) (ops : List Operand) : Option Asm :=
  match String.ofList m, ops with
  | "CSETRGBW", [.reg cd, .num r, .num g, .num b, .num w] => some (.csetrgbw cd r g b w)
  | "CSETCOLOR", [.reg cd, .reg cs] => some (.csetcolor cd cs)
  | "CSET32", [.reg cd, .num packed] => some (.cset32 cd packed)
  | "CGET32", [.reg cd] => some (.cget32 cd)
  | "CSETR", [.reg cd, .num v] => some (.csetr cd v)
  | "CSETG", [.reg cd, .num v] => some (.csetg cd v)
  | "CSETB", [.reg cd, .num v] => some (.csetb cd v)
  | "CSETW", [.reg cd, .num v] => some (.csetw cd v)
  | "CGETR", [.reg cd] => some (.cgetr cd)
  | "CGETG", [.reg cd] => some (.cgetg cd)
  | "CGETB", [.reg cd] => some (.cgetb cd)
  | "CGETW", [.reg cd] => some (.cgetw cd)
  | "SETPIXC", [.num idx, .reg cs] => some (.setpixc idx cs)
  | "SETPIXRGBW", [.num idx, .num r, .num g, .num b, .num w] => some (.setpixrgbw idx r g b w)
  | "CLEAR", [] => some .clear
  | "SHOW", [] => some .showStrip
  | "DESTROY", [] => some .destroy
  | "RDSTAT", [] => some .rdstat
  | "CSETRGB", [.reg cd, .num r, .num g, .num b] => some (.csetrgb cd r g b)
  | "SETPIXRGB", [.num idx, .num r, .num g, .num b] => some (.setpixrgb idx r g b)
  | _, _ => none

/-- A line of the listing; none if it is not of the form R71 gives. DESIGN CHOICE (log 27): R71 gives no form for the pin and
the channel of a `.construct` line, and any operand is taken: a name, spaces inside it too, a number, or a register name. -/
def parseLine (text : List Char) : Option AsmLine :=
  let cs := trim (dropComment text)
  let m := cs.takeWhile (fun c => !isSpace c)
  let rest := trim (cs.drop m.length)
  if cs = [] then some .blank
  else
    match operands rest with
    | none => none
    | some ops =>
      if String.ofList m = ".construct" then
        match ops with
        | [pin, .num length, channel] => some (.construct pin length channel)
        | _ => none
      else (asmOf m ops).map .command

/-- A text with no space, comma or comment sign in it, and not empty: a mnemonic or an operand. -/
def isWord (cs : List Char) : Bool :=
  !cs.isEmpty && cs.all (fun c => !isSpace c && c != ',' && c != ';')

/-- The mnemonic of a command (R67, R72). -/
def mnemonicOf : Asm → String
  | .csetrgbw .. => "CSETRGBW"
  | .csetcolor .. => "CSETCOLOR"
  | .cset32 .. => "CSET32"
  | .cget32 .. => "CGET32"
  | .csetr .. => "CSETR"
  | .csetg .. => "CSETG"
  | .csetb .. => "CSETB"
  | .csetw .. => "CSETW"
  | .cgetr .. => "CGETR"
  | .cgetg .. => "CGETG"
  | .cgetb .. => "CGETB"
  | .cgetw .. => "CGETW"
  | .setpixc .. => "SETPIXC"
  | .setpixrgbw .. => "SETPIXRGBW"
  | .clear => "CLEAR"
  | .showStrip => "SHOW"
  | .destroy => "DESTROY"
  | .rdstat => "RDSTAT"
  | .csetrgb .. => "CSETRGB"
  | .setpixrgb .. => "SETPIXRGB"

/-- The operands of a command in the order they are written (R67, R72). -/
def operandsOf : Asm → List Operand
  | .csetrgbw cd r g b w => [.reg cd, .num r, .num g, .num b, .num w]
  | .csetcolor cd cs => [.reg cd, .reg cs]
  | .cset32 cd packed => [.reg cd, .num packed]
  | .cget32 cd => [.reg cd]
  | .csetr cd v => [.reg cd, .num v]
  | .csetg cd v => [.reg cd, .num v]
  | .csetb cd v => [.reg cd, .num v]
  | .csetw cd v => [.reg cd, .num v]
  | .cgetr cd => [.reg cd]
  | .cgetg cd => [.reg cd]
  | .cgetb cd => [.reg cd]
  | .cgetw cd => [.reg cd]
  | .setpixc idx cs => [.num idx, .reg cs]
  | .setpixrgbw idx r g b w => [.num idx, .num r, .num g, .num b, .num w]
  | .clear => []
  | .showStrip => []
  | .destroy => []
  | .rdstat => []
  | .csetrgb cd r g b => [.reg cd, .num r, .num g, .num b]
  | .setpixrgb idx r g b => [.num idx, .num r, .num g, .num b]

/-- The command word of a line that is a well-formed command (R71, R72). -/
def assembleLine (text : List Char) : Option CmdWord :=
  match parseLine text with
  | some (.command a) => assemble a
  | _ => none

/-- A listing: the construction arguments its head states, if it does, and its command words in order (R71). -/
structure Listing where
  head : Option (Operand × Nat × Operand)
  words : List CmdWord
  deriving DecidableEq, Repr

/-- The command words of lines, one command a line (R71); a construction stands at the head only. -/
def commandsOf : List (List Char) → Option (List CmdWord)
  | [] => some []
  | text :: texts =>
    match parseLine text with
    | some .blank => commandsOf texts
    | some (.command a) => (assemble a).bind (fun w => (commandsOf texts).map (w :: ·))
    | some (.construct ..) => none
    | none => none

/-- A listing read from its lines (R71). -/
def listingOf : List (List Char) → Option Listing
  | [] => some { head := none, words := [] }
  | text :: texts =>
    match parseLine text with
    | some .blank => listingOf texts
    | some (.construct pin length channel) =>
      (commandsOf texts).map (fun ws => { head := some (pin, length, channel), words := ws })
    | some (.command _) => (commandsOf (text :: texts)).map (fun ws => { head := none, words := ws })
    | none => none

end Sys2Proof.Machine
end

