-- ==== Sys2Proof/Machine/Run.lean ====
section
/-! DEFINITION. The conditions under which a command is accepted, one for each row of the table of 41_strip R100, and the
end and the result of a run (70_reset R183). -/

namespace Sys2Proof.Machine

/-- No SHOW holds the port (R100). -/
abbrev PortIsFree (s : State) : Prop := s.ph = .idle ∨ s.ph = .tx

/-- A Color command is accepted (40_color R95). -/
abbrev ColorAccepted (s : State) : Prop :=
  s.live = true ∧ s.status.allocFail = false ∧ PortIsFree s

/-- SETPIXC, SETPIXRGBW or CLEAR is accepted (R100). -/
abbrev PixelAccepted (s : State) : Prop :=
  s.live = true ∧ s.status.allocFail = false ∧ PortIsFree s

/-- The peripheral was configured and installed: the launch premise of a clean construction (70_reset R171). -/
abbrev PeripheralReady (s : State) : Prop := s.status.cfgErr = false ∧ s.status.installErr = false

/-- SHOW is accepted (R100). -/
abbrev ShowAccepted (s : State) : Prop :=
  s.live = true ∧ s.status.allocFail = false ∧ PeripheralReady s ∧ PortIsFree s

/-- DESTROY is accepted (R100). -/
abbrev DestroyAccepted (s : State) : Prop := s.live = true ∧ s.ph = .idle

/-- RDSTAT is accepted (R100). -/
abbrev RdstatAccepted (s : State) : Prop := s.live = true ∧ PortIsFree s

/-- The premise of every claim about SHOW (41_strip R104, 92 D15, D17): both calls will answer Ok. -/
abbrev PeripheralAnswersOk (s : State) : Prop :=
  nextAnswer s.env.waitAnswers = .ok ∧ nextAnswer s.env.txAnswers = .ok ∧
    (s.cfg.length ≠ 0 ∨ s.cfg.zeroCountTxOk = true)

/-- The row of R100's table a command belongs to. -/
def classOf : Instr → CmdClass
  | .csetrgbw .. => .color
  | .csetcolor .. => .color
  | .cset32 .. => .color
  | .cget32 .. => .color
  | .csetr .. => .color
  | .csetg .. => .color
  | .csetb .. => .color
  | .csetw .. => .color
  | .cgetr .. => .color
  | .cgetg .. => .color
  | .cgetb .. => .color
  | .cgetw .. => .color
  | .setpixc .. => .pixel
  | .setpixrgbw .. => .pixel
  | .clear => .pixel
  | .showStrip => .showing
  | .destroy => .destroying
  | .rdstat => .status

/-- The conditions of a row of R100's table. -/
def AcceptedAs (c : CmdClass) (s : State) : Prop :=
  match c with
  | .color => ColorAccepted s
  | .pixel => PixelAccepted s
  | .showing => ShowAccepted s
  | .destroying => DestroyAccepted s
  | .status => RdstatAccepted s

/-- The commands that answer a response word (30_encoding R69). -/
def answers : Instr → Bool
  | .csetrgbw .. => false
  | .csetcolor .. => false
  | .cset32 .. => false
  | .cget32 .. => true
  | .csetr .. => false
  | .csetg .. => false
  | .csetb .. => false
  | .csetw .. => false
  | .cgetr .. => true
  | .cgetg .. => true
  | .cgetb .. => true
  | .cgetw .. => true
  | .setpixc .. => false
  | .setpixrgbw .. => false
  | .clear => false
  | .showStrip => false
  | .destroy => false
  | .rdstat => true

/-- The Color register a command writes (40_color R80). -/
def destReg : Instr → Option CReg
  | .csetrgbw cd .. => some cd
  | .csetcolor cd _ => some cd
  | .cset32 cd _ => some cd
  | .cget32 _ => none
  | .csetr cd _ => some cd
  | .csetg cd _ => some cd
  | .csetb cd _ => some cd
  | .csetw cd _ => some cd
  | .cgetr _ => none
  | .cgetg _ => none
  | .cgetb _ => none
  | .cgetw _ => none
  | .setpixc .. => none
  | .setpixrgbw .. => none
  | .clear => none
  | .showStrip => none
  | .destroy => none
  | .rdstat => none

/-- The run has ended (R183): nothing is left to execute, no SHOW waits and no frame is in flight. -/
abbrev Final (s : State) : Prop := s.env.port = [] ∧ s.busy = false ∧ s.ph = .idle

/-- The result of a run (R183). -/
structure RunResult where
  cr : ColorRegs
  pix : Cells Color
  wave : Cells Item
  status : Status
  live : Bool
  responses : List Word
  frames : List (List Item)
  deriving DecidableEq, Repr

/-- The result of a run that has ended (R183). -/
def resultOf (s : State) : Option RunResult :=
  if Final s then
    some
      { cr := s.cr
        pix := s.pix
        wave := s.wave
        status := s.status
        live := s.live
        responses := s.obs.responses
        frames := s.obs.frames }
  else none

end Sys2Proof.Machine
end

