-- ==== Sys2Proof/Safety.lean ====
section
/-! DEFINITION. What counts as a safe step and the invariant of the machine: the relations between its state that the spec
gives for every reachable state (10_state R18, 20_memory R47, 42_encoder R123, R124). -/

namespace Sys2Proof.Machine

/-- A step is safe when it neither faults nor meets a situation the spec gives no meaning. -/
def Safe (o : Host.Outcome State Fault Refusal) : Prop := ∃ s, o = .next s

/-- One of the two items of the line code (42_encoder R123). -/
abbrev IsLineItem (c : InstanceConfig) (it : Item) : Prop := it = zeroItem c ∨ it = oneItem c

/-- The invariant of the machine. Clauses that speak of the peripheral's side are guarded by a clean peripheral set-up,
since 70_reset R171 leaves that side unspecified otherwise. -/
structure Inv (s : State) : Prop where
  /-- PIX and WAVE are in canonical form, inside `0 .. LENGTH-1` and `0 .. NITEMS-1` (10_state R13, R15). -/
  memory : Memory.wf s = true
  /-- The parameters are legal (00_scope R5). -/
  config : s.cfg.wellFormed = true
  /-- WAVE holds items of the line code only (42_encoder R123). -/
  lineItems : ∀ e ∈ s.wave, IsLineItem s.cfg e.2
  /-- `PH = TX implies BUSY = 1` (10_state R18). -/
  txBusy : s.ph = .tx → s.busy = true
  /-- `PH = IDLE implies BUSY = 0` after a clean set-up (10_state R18, 90 C9). -/
  idleNotBusy : s.ph = .idle → PeripheralReady s → s.busy = false
  /-- `PH = ENC implies BUSY = 0` (10_state R18). -/
  encNotBusy : s.ph = .enc → s.busy = false
  /-- Outside IDLE the instance lives and its construction succeeded: only SHOW leaves IDLE (41_strip R100, R107). -/
  notIdleReady : s.ph ≠ .idle → s.live = true ∧ s.status.allocFail = false ∧ PeripheralReady s
  /-- With BUSY = 0 nothing is in flight and the line is at its idle level (42_encoder R130, R131). -/
  idleLine : PeripheralReady s → s.busy = false → s.inflight = [] ∧ s.emitPos = 0 ∧ s.line = 0
  /-- With BUSY = 1 the frame in flight is exactly the content of WAVE (20_memory R47 item 5). -/
  frameIsWave : PeripheralReady s → s.busy = true →
    waveRead 0 (nitems s.cfg) s.wave = some s.inflight ∧ s.emitPos ≤ 2 * s.inflight.length

end Sys2Proof.Machine
end

