-- ==== Sys2Proof/Certificates/Slice0/Obligations.lean ====
section
/-! DEFINITION. The statements for the provers. Each docstring names the rule of spec/ it formalises. A frame is written as
`t = { s with f := t.f, ... }`: every field that is not named is unchanged. -/

open Sys2Proof Sys2Proof.Machine
open Host (Outcome)

/-! ### The step and the invariant -/

/-- R26: the state right after reset, for the values the spec gives. -/
def Obligations.ResetStateValues : Prop :=
  (∀ r, getReg r State.reset = { red := 0, green := 0, blue := 0, white := 0 }) ∧
  (∀ i, i < State.reset.cfg.length → pixel i State.reset = { red := 0, green := 0, blue := 0, white := 0 }) ∧
  State.reset.ph = .idle ∧
  State.reset.status = { allocFail := false, cfgErr := false, installErr := false } ∧
  State.reset.live = true ∧ State.reset.busy = false ∧ State.reset.inflight = [] ∧ State.reset.line = 0 ∧
  State.reset.obs.diag = []

/-- The invariant holds right after reset. -/
def Obligations.ResetMeetsInvariant : Prop := Inv State.reset

/-- Every step keeps the invariant: canonical memories, a legal configuration, only items of the line code in WAVE, the
relations of PH and BUSY (R18), and the frame in flight equal to WAVE (R47 item 5). -/
def Obligations.StepKeepsInvariant : Prop :=
  ∀ s t : State, Inv s → step s = .next t → Inv t

/-- On a turn of the block with a free port, a step takes the next input off the port: it runs the command a word decodes to
(R100), or the reset sequence of a construction (R170, R184); that a construction comes by the port is log 28. On a turn of
the peripheral, it is one event of the peripheral; with an empty port, nothing but the schedule moves. -/
def Obligations.StepRunsDecodedCommand : Prop :=
  (∀ (s : State) (w : CmdWord) (rest : List HostInput) (i : Instr),
    turnOf s = .block → PortIsFree s → s.env.port = .command w :: rest → decode w = .ok i →
      step s = exec i { s with env := { s.env with port := rest, sched := s.env.sched.tail } }) ∧
  (∀ (s : State) (a : ConstructArgs) (rest : List HostInput),
    turnOf s = .block → PortIsFree s → s.env.port = .construct a :: rest →
      step s = hostConstruct a { s with env := { s.env with port := rest, sched := s.env.sched.tail } }) ∧
  (∀ s : State, turnOf s = .block → PortIsFree s → s.env.port = [] → step s = .next (endTurn s)) ∧
  (∀ s : State, turnOf s = .peripheral → step s = .next (peripheralTurn (endTurn s)))

/-- A word presented with `withFetchWord` to a free port is the very next command executed. -/
def Obligations.PresentedWordRunsNext : Prop :=
  ∀ (s : State) (nbits w : Nat) (i : Instr),
    PortIsFree s → decodeTableWord nbits w = some i → step (s.withFetchWord nbits w) = exec i s

/-! ### Encoding -/

/-- Decoding the word of any command, with every operand at every value, gives the command back (R65, R66). -/
def Obligations.DecodeEncodeRoundTrip : Prop :=
  ∀ i : Instr, decode (encode i) = .ok i

/-- A word that decodes is the word of what it decodes to: no two words are one command (R65, R68). -/
def Obligations.DecodedWordIsItsEncoding : Prop :=
  ∀ (w : CmdWord) (i : Instr), decode w = .ok i → encode i = w

/-- A word decodes to a command of a row exactly when it matches the row under its mask, and the rows are the table's
(R67). -/
def Obligations.DecodeFollowsMatchAndMask : Prop :=
  (∀ (w : CmdWord) (i : Instr),
    (∃ j, decode w = .ok j ∧ rowMatch j = rowMatch i) ↔ w &&& rowMask i = rowMatch i) ∧
  (∀ i : Instr, (rowMatch i, rowMask i) ∈ opcodeRows) ∧
  (∀ w : CmdWord, (∃ row ∈ opcodeRows, w &&& row.2 = row.1) ↔ ∃ i, decode w = .ok i) ∧
  (∀ (w : CmdWord) (row row' : CmdWord × CmdWord), row ∈ opcodeRows → row' ∈ opcodeRows →
    w &&& row.2 = row.1 → w &&& row'.2 = row'.1 → row = row')

/-- R68: a word that matches no row is illegal; it is one with an unassigned opcode or a nonzero bit in a field its format
does not use; the port refuses it, and the decoder answers for every word. -/
def Obligations.IllegalWordRefused : Prop :=
  (∀ (w : CmdWord) (s : State), (∀ row ∈ opcodeRows, w &&& row.2 ≠ row.1) →
    ∃ e, decode w = .error e ∧ hostCommand w s = .refused (.illegalWord e)) ∧
  (∀ w : CmdWord, decode w = .error .unassignedOpcode ↔
    ¬((1 ≤ (w.extractLsb' 56 8).toNat ∧ (w.extractLsb' 56 8).toNat ≤ 0x0C) ∨
      (0x10 ≤ (w.extractLsb' 56 8).toNat ∧ (w.extractLsb' 56 8).toNat ≤ 0x15))) ∧
  (∀ (s : State) (w : CmdWord) (rest : List HostInput) (e : DecodeError),
    turnOf s = .block → PortIsFree s → s.env.port = .command w :: rest → decode w = .error e →
      step s = .refused (.illegalWord e))

/-- Seven words written out in the spec (95_test_vectors sections 2.2, 2.3, 2.5), of both formats and all three families, decode to
what they stand for, and an eighth (section 2.7), with a nonzero unused field, is rejected. -/
def Obligations.WrittenWordsDecode : Prop :=
  decode 0x0140000001020304 = .ok (.csetrgbw .c1 1 2 3 4) ∧
  decode 0x0290000000000000 = .ok (.csetcolor .c2 .c1) ∧
  decode 0x05C00000000000AA = .ok (.csetr .c3 0xAA) ∧
  decode 0x0A80000000000000 = .ok (.cgetg .c2) ∧
  decode 0x1020000100000000 = .ok (.setpixc 1 .c2) ∧
  decode 0x1100FFFF09090909 = .ok (.setpixrgbw 0xFFFF 9 9 9 9) ∧
  decode 0x1300000000000000 = .ok .showStrip ∧
  decode 0x0110000001020304 = .error .unusedFieldNonzero

/-- R61: the packed layout, and `pack` and `unpack` inverse in both directions. -/
def Obligations.PackUnpackInverse : Prop :=
  (∀ c : Color, (pack c).extractLsb' 24 8 = c.red ∧ (pack c).extractLsb' 16 8 = c.green ∧
    (pack c).extractLsb' 8 8 = c.blue ∧ (pack c).extractLsb' 0 8 = c.white) ∧
  (∀ c : Color, unpack (pack c) = c) ∧
  (∀ x : Word, pack (unpack x) = x) ∧
  pack { red := 0x12, green := 0x34, blue := 0x56, white := 0x78 } = 0x12345678

/-- 30_encoding section 9: the assembler. From R71 and R72: a number is decimal or `0x` hexadecimal, `c0` to `c3` are
registers, a line is a mnemonic and its operands separated by commas, or the mnemonic alone, `;` starts a comment, a
`.construct` line states the construction arguments at the head of a listing and is no command; a command has a word exactly
when its operands are in range, with each operand in its field, and the word decodes to it; the two pseudo-commands expand
with `w = 0`. The model's choices where R71 is silent (log 27): the
pin and the channel of a `.construct` line are operands of any form, digits `a` to `f` are read as `A` to `F`, spaces at the ends of
a line change nothing and one stands after each comma and the mnemonic as in 95_test_vectors, a blank line is skipped, a
listing without a `.construct` line has no head, and a `.construct` line below the head makes the text no listing. -/
def Obligations.AssembledWordDecodes : Prop :=
  (∀ a : Asm, (a.wellFormed = true → ∃ w, assemble a = some w ∧ decode w = .ok (asmInstr a)) ∧
    (a.wellFormed = false → assemble a = none)) ∧
  (∀ cd r g b : Nat, assemble (.csetrgb cd r g b) = assemble (.csetrgbw cd r g b 0)) ∧
  (∀ idx r g b : Nat, assemble (.setpixrgb idx r g b) = assemble (.setpixrgbw idx r g b 0)) ∧
  (∀ cd r g b w : Nat, assemble (.csetrgbw cd r g b w) =
    if cd < 4 ∧ r < 256 ∧ g < 256 ∧ b < 256 ∧ w < 256 then
      some (BitVec.ofNat 64 (0x01 * 2 ^ 56 + cd * 2 ^ 54 + r * 2 ^ 24 + g * 2 ^ 16 + b * 2 ^ 8 + w)) else none) ∧
  (∀ cd cs : Nat, assemble (.csetcolor cd cs) =
    if cd < 4 ∧ cs < 4 then
      some (BitVec.ofNat 64 (0x02 * 2 ^ 56 + cd * 2 ^ 54 + cs * 2 ^ 52)) else none) ∧
  (∀ cd packed : Nat, assemble (.cset32 cd packed) =
    if cd < 4 ∧ packed < 2 ^ 32 then
      some (BitVec.ofNat 64 (0x03 * 2 ^ 56 + cd * 2 ^ 54 + packed)) else none) ∧
  (∀ cd : Nat, assemble (.cget32 cd) =
    if cd < 4 then
      some (BitVec.ofNat 64 (0x04 * 2 ^ 56 + cd * 2 ^ 54)) else none) ∧
  (∀ cd v : Nat, assemble (.csetr cd v) =
    if cd < 4 ∧ v < 256 then
      some (BitVec.ofNat 64 (0x05 * 2 ^ 56 + cd * 2 ^ 54 + v)) else none) ∧
  (∀ cd v : Nat, assemble (.csetg cd v) =
    if cd < 4 ∧ v < 256 then
      some (BitVec.ofNat 64 (0x06 * 2 ^ 56 + cd * 2 ^ 54 + v)) else none) ∧
  (∀ cd v : Nat, assemble (.csetb cd v) =
    if cd < 4 ∧ v < 256 then
      some (BitVec.ofNat 64 (0x07 * 2 ^ 56 + cd * 2 ^ 54 + v)) else none) ∧
  (∀ cd v : Nat, assemble (.csetw cd v) =
    if cd < 4 ∧ v < 256 then
      some (BitVec.ofNat 64 (0x08 * 2 ^ 56 + cd * 2 ^ 54 + v)) else none) ∧
  (∀ cd : Nat, assemble (.cgetr cd) =
    if cd < 4 then
      some (BitVec.ofNat 64 (0x09 * 2 ^ 56 + cd * 2 ^ 54)) else none) ∧
  (∀ cd : Nat, assemble (.cgetg cd) =
    if cd < 4 then
      some (BitVec.ofNat 64 (0x0A * 2 ^ 56 + cd * 2 ^ 54)) else none) ∧
  (∀ cd : Nat, assemble (.cgetb cd) =
    if cd < 4 then
      some (BitVec.ofNat 64 (0x0B * 2 ^ 56 + cd * 2 ^ 54)) else none) ∧
  (∀ cd : Nat, assemble (.cgetw cd) =
    if cd < 4 then
      some (BitVec.ofNat 64 (0x0C * 2 ^ 56 + cd * 2 ^ 54)) else none) ∧
  (∀ idx cs : Nat, assemble (.setpixc idx cs) =
    if idx < 65536 ∧ cs < 4 then
      some (BitVec.ofNat 64 (0x10 * 2 ^ 56 + idx * 2 ^ 32 + cs * 2 ^ 52)) else none) ∧
  (∀ idx r g b w : Nat, assemble (.setpixrgbw idx r g b w) =
    if idx < 65536 ∧ r < 256 ∧ g < 256 ∧ b < 256 ∧ w < 256 then
      some (BitVec.ofNat 64 (0x11 * 2 ^ 56 + idx * 2 ^ 32 + r * 2 ^ 24 + g * 2 ^ 16 + b * 2 ^ 8 + w)) else none) ∧
  assemble .clear = some (BitVec.ofNat 64 (0x12 * 2 ^ 56)) ∧ assemble .showStrip = some (BitVec.ofNat 64 (0x13 * 2 ^ 56)) ∧
  assemble .destroy = some (BitVec.ofNat 64 (0x14 * 2 ^ 56)) ∧ assemble .rdstat = some (BitVec.ofNat 64 (0x15 * 2 ^ 56)) ∧
  (∀ cs : List Char, cs ≠ [] → (∀ c ∈ cs, c ∈ decimalDigits) → number cs = some (valueIn decimalDigits cs)) ∧
  (∀ cs : List Char, cs ≠ [] → (∀ c ∈ cs, c ∈ hexDigits) → number ('0' :: 'x' :: cs) = some (valueIn hexDigits cs)) ∧
  (∀ cs : List Char, cs ≠ [] → (∀ c ∈ cs, c ∈ hexDigits ++ lowerHexDigits) →
    number ('0' :: 'x' :: cs) = some (valueIn hexDigits (cs.map Char.toUpper))) ∧
  (∀ (cs : List Char) (n : Nat), number cs = some n → operand cs = some (.num n)) ∧
  (∀ n, n < 4 → operand ['c', Nat.digitChar n] = some (.reg n)) ∧
  (∀ (m : List Char) (ops : List Operand) (a : Asm),
    asmOf m ops = some a ↔ m = (mnemonicOf a).toList ∧ ops = operandsOf a) ∧
  (∀ (m : List Char) (texts : List (List Char)), isWord m = true → (∀ x ∈ texts, isWord x = true) →
    m ≠ ".construct".toList →
      parseLine (m ++ ' ' :: [',', ' '].intercalate texts) = ((texts.mapM operand).bind (asmOf m)).map .command) ∧
  (∀ m : List Char, isWord m = true → m ≠ ".construct".toList → parseLine m = (asmOf m []).map .command) ∧
  (∀ text : List Char, parseLine (' ' :: text) = parseLine text ∧ parseLine (text ++ [' ']) = parseLine text) ∧
  (∀ text comment : List Char, parseLine (text ++ ';' :: comment) = parseLine text) ∧
  (∀ (p l c : List Char) (pin channel : Operand) (length : Nat), isWord p = true → isWord l = true → isWord c = true →
    operand p = some pin → operand l = some (.num length) → operand c = some channel →
      parseLine (".construct".toList ++ ' ' :: [',', ' '].intercalate [p, l, c]) =
        some (.construct pin length channel)) ∧
  (∀ (text : List Char) (a : Asm), parseLine text = some (.command a) → assembleLine text = assemble a) ∧
  (∀ (text : List Char) (texts : List (List Char)) (pin channel : Operand) (length : Nat),
    parseLine text = some (.construct pin length channel) →
      assembleLine text = none ∧ commandsOf (text :: texts) = none ∧
      listingOf (text :: texts) =
        (commandsOf texts).map (fun ws => { head := some (pin, length, channel), words := ws })) ∧
  (∀ (text : List Char) (texts : List (List Char)) (a : Asm), parseLine text = some (.command a) →
    commandsOf (text :: texts) = (assemble a).bind (fun w => (commandsOf texts).map (w :: ·)) ∧
    listingOf (text :: texts) = (commandsOf (text :: texts)).map (fun ws => { head := none, words := ws })) ∧
  (∀ (text : List Char) (texts : List (List Char)), parseLine text = some .blank →
    commandsOf (text :: texts) = commandsOf texts ∧ listingOf (text :: texts) = listingOf texts) ∧
  parseLine [] = some .blank ∧ commandsOf [] = some [] ∧ listingOf [] = some { head := none, words := [] }

/-! ### Color commands -/

/-- R81: CSETRGBW overwrites all four channels, as CSET32 of the packed colour does. -/
def Obligations.CsetrgbwOverwritesAllChannels : Prop :=
  (∀ (s : State) (cd : CReg) (r g b w : Byte), ColorAccepted s →
    ∃ t, exec (.csetrgbw cd r g b w) s = .next t ∧
      getReg cd t = { red := r, green := g, blue := b, white := w } ∧
      (∀ q, q ≠ cd → getReg q t = getReg q s) ∧ t = { s with cr := t.cr }) ∧
  (∀ cd r g b : Nat, assemble (.csetrgb cd r g b) = assemble (.csetrgbw cd r g b 0)) ∧
  (∀ (s : State) (cd : CReg) (r g b w : Byte),
    exec (.csetrgbw cd r g b w) s =
      exec (.cset32 cd (pack { red := r, green := g, blue := b, white := w })) s) ∧
  (∀ (cd : CReg) (r g b w : Byte),
    encode (.csetrgbw cd r g b w) =
      (0x01 : BitVec 8) ++ cregCode cd ++ (0 : BitVec 2) ++ (0 : BitVec 4) ++ (0 : BitVec 16) ++ (r ++ g ++ b ++ w)) ∧
  encode (.csetrgbw .c1 1 2 3 4) = 0x0140000001020304

/-- R82: CSETCOLOR copies a register; the source keeps its value, and a copy onto itself changes nothing. -/
def Obligations.CsetcolorCopiesRegister : Prop :=
  (∀ (s : State) (cd cs : CReg), ColorAccepted s →
    ∃ t, exec (.csetcolor cd cs) s = .next t ∧ getReg cd t = getReg cs s ∧
      (∀ q, q ≠ cd → getReg q t = getReg q s) ∧ t = { s with cr := t.cr } ∧ (cd = cs → t = s)) ∧
  (∀ cd cs : CReg,
    encode (.csetcolor cd cs) =
      (0x02 : BitVec 8) ++ cregCode cd ++ cregCode cs ++ (0 : BitVec 4) ++ (0 : BitVec 16) ++ (0 : BitVec 32)) ∧
  encode (.csetcolor .c2 .c1) = 0x0290000000000000

/-- R83: CSET32 unpacks its immediate. -/
def Obligations.Cset32Unpacks : Prop :=
  (∀ (s : State) (cd : CReg) (x : Word), ColorAccepted s →
    ∃ t, exec (.cset32 cd x) s = .next t ∧
      getReg cd t =
        { red := x.extractLsb' 24 8, green := x.extractLsb' 16 8, blue := x.extractLsb' 8 8, white := x.extractLsb' 0 8 } ∧
      (∀ q, q ≠ cd → getReg q t = getReg q s) ∧ t = { s with cr := t.cr }) ∧
  (∀ (cd : CReg) (x : Word),
    encode (.cset32 cd x) =
      (0x03 : BitVec 8) ++ cregCode cd ++ (0 : BitVec 2) ++ (0 : BitVec 4) ++ (0 : BitVec 16) ++ x) ∧
  encode (.cset32 .c0 0x12345678) = 0x0300000012345678

/-- R84: CGET32 answers the packed colour and writes no state. -/
def Obligations.Cget32RespondsPackedColour : Prop :=
  (∀ (s : State) (cd : CReg), ColorAccepted s →
    exec (.cget32 cd) s =
      .next { s with
        obs := { s.obs with
          responses := s.obs.responses ++
            [(getReg cd s).red ++ (getReg cd s).green ++ (getReg cd s).blue ++ (getReg cd s).white] } }) ∧
  (∀ cd : CReg,
    encode (.cget32 cd) =
      (0x04 : BitVec 8) ++ cregCode cd ++ (0 : BitVec 2) ++ (0 : BitVec 4) ++ (0 : BitVec 16) ++ (0 : BitVec 32)) ∧
  encode (.cget32 .c0) = 0x0400000000000000

/-- R85 to R88: a channel setter writes its channel and keeps the other three. -/
def Obligations.ChannelSettersWriteOneChannel : Prop :=
  (∀ (s : State) (cd : CReg) (v : Byte), ColorAccepted s →
    (∃ t, exec (.csetr cd v) s = .next t ∧ getReg cd t = { getReg cd s with red := v } ∧
      (∀ q, q ≠ cd → getReg q t = getReg q s) ∧ t = { s with cr := t.cr }) ∧
    (∃ t, exec (.csetg cd v) s = .next t ∧ getReg cd t = { getReg cd s with green := v } ∧
      (∀ q, q ≠ cd → getReg q t = getReg q s) ∧ t = { s with cr := t.cr }) ∧
    (∃ t, exec (.csetb cd v) s = .next t ∧ getReg cd t = { getReg cd s with blue := v } ∧
      (∀ q, q ≠ cd → getReg q t = getReg q s) ∧ t = { s with cr := t.cr }) ∧
    (∃ t, exec (.csetw cd v) s = .next t ∧ getReg cd t = { getReg cd s with white := v } ∧
      (∀ q, q ≠ cd → getReg q t = getReg q s) ∧ t = { s with cr := t.cr })) ∧
  (∀ (op : BitVec 8) (cd : CReg) (v : Byte) (i : Instr),
    (op, i) ∈ [(0x05, Instr.csetr cd v), (0x06, .csetg cd v), (0x07, .csetb cd v), (0x08, .csetw cd v)] →
      encode i =
        op ++ cregCode cd ++ (0 : BitVec 2) ++ (0 : BitVec 4) ++ (0 : BitVec 16) ++ ((0 : BitVec 24) ++ v)) ∧
  encode (.csetr .c3 0xAA) = 0x05C00000000000AA ∧ encode (.csetg .c3 0xBB) = 0x06C00000000000BB ∧
  encode (.csetb .c3 0xCC) = 0x07C00000000000CC ∧ encode (.csetw .c0 0xFF) = 0x08000000000000FF

/-- R89 to R92: a channel getter answers its channel, zero-extended, and writes no state. -/
def Obligations.ChannelGettersRespondZeroExtended : Prop :=
  (∀ (s : State) (cd : CReg), ColorAccepted s →
    exec (.cgetr cd) s =
      .next { s with obs := { s.obs with responses := s.obs.responses ++ [(0 : BitVec 24) ++ (getReg cd s).red] } } ∧
    exec (.cgetg cd) s =
      .next { s with obs := { s.obs with responses := s.obs.responses ++ [(0 : BitVec 24) ++ (getReg cd s).green] } } ∧
    exec (.cgetb cd) s =
      .next { s with obs := { s.obs with responses := s.obs.responses ++ [(0 : BitVec 24) ++ (getReg cd s).blue] } } ∧
    exec (.cgetw cd) s =
      .next { s with obs := { s.obs with responses := s.obs.responses ++ [(0 : BitVec 24) ++ (getReg cd s).white] } }) ∧
  (∀ (op : BitVec 8) (cd : CReg) (i : Instr),
    (op, i) ∈ [(0x09, Instr.cgetr cd), (0x0A, .cgetg cd), (0x0B, .cgetb cd), (0x0C, .cgetw cd)] →
      encode i =
        op ++ cregCode cd ++ (0 : BitVec 2) ++ (0 : BitVec 4) ++ (0 : BitVec 16) ++ (0 : BitVec 32)) ∧
  encode (.cgetr .c3) = 0x09C0000000000000 ∧ encode (.cgetg .c2) = 0x0A80000000000000 ∧
  encode (.cgetb .c3) = 0x0BC0000000000000 ∧ encode (.cgetw .c3) = 0x0CC0000000000000

/-- R93: what is set is what is read back, packed and channel by channel. -/
def Obligations.ColorRoundTripLaws : Prop :=
  (∀ (s : State) (cd : CReg) (x : Word), ColorAccepted s →
    ∃ t u, exec (.cset32 cd x) s = .next t ∧ exec (.cget32 cd) t = .next u ∧
      u.obs.responses = s.obs.responses ++ [x]) ∧
  (∀ (s : State) (cd : CReg) (r g b w : Byte), ColorAccepted s →
    ∃ t t1 t2 t3 t4 u, exec (.csetrgbw cd r g b w) s = .next t ∧
      exec (.cgetr cd) t = .next t1 ∧ exec (.cgetg cd) t1 = .next t2 ∧ exec (.cgetb cd) t2 = .next t3 ∧
      exec (.cgetw cd) t3 = .next t4 ∧
      t4.obs.responses = s.obs.responses ++ [r.setWidth 32, g.setWidth 32, b.setWidth 32, w.setWidth 32] ∧
      exec (.cget32 cd) t = .next u ∧
      u.obs.responses = s.obs.responses ++
        [r.setWidth 32 <<< 24 ||| g.setWidth 32 <<< 16 ||| b.setWidth 32 <<< 8 ||| w.setWidth 32])

/-- R80: the frame of the twelve Color commands. They write their destination register and the response port, nothing
else: no pixel, no waveform entry, no flag, no phase, nothing of the peripheral. -/
def Obligations.ColorCommandsFrame : Prop :=
  ∀ (i : Instr) (s t : State), classOf i = .color → exec i s = .next t →
    t = { s with cr := t.cr, obs := { s.obs with responses := t.obs.responses } } ∧
    (∀ q, destReg i ≠ some q → getReg q t = getReg q s) ∧
    (∀ a, pixel a t = pixel a s) ∧ (∀ j, waveItem j t = waveItem j s)

/-- R95: when a Color command is accepted and why it is refused; it never faults. -/
def Obligations.ColorCommandAcceptance : Prop :=
  ∀ (i : Instr) (s : State), classOf i = .color →
    ((∃ t, exec i s = .next t) ↔
      s.live = true ∧ s.status.allocFail = false ∧ (s.ph = .idle ∨ s.ph = .tx)) ∧
    (s.live = false → exec i s = .refused .notLive) ∧
    (s.live = true → PortIsFree s → s.status.allocFail = true → exec i s = .refused .allocFailed) ∧
    (∀ f, exec i s ≠ .fault f)

/-! ### Pixel commands -/

/-- R101: SETPIXC writes the whole Color of a register to one pixel, or nothing when the index is out of range; the colour
is copied by value, so no Color command changes the pixel afterwards. -/
def Obligations.SetpixcWritesOnePixel : Prop :=
  (∀ (s : State) (idx : PixIdx) (cs : CReg), PixelAccepted s →
    ∃ t, exec (.setpixc idx cs) s = .next t ∧
      (idx.toNat < s.cfg.length → pixel idx.toNat t = getReg cs s) ∧
      (∀ a, a ≠ idx.toNat → pixel a t = pixel a s) ∧
      (s.cfg.length ≤ idx.toNat → t = s) ∧ t = { s with pix := t.pix } ∧
      (∀ i u a, classOf i = .color → exec i t = .next u → pixel a u = pixel a t)) ∧
  (∀ (idx : PixIdx) (cs : CReg),
    encode (.setpixc idx cs) =
      (0x10 : BitVec 8) ++ (0 : BitVec 2) ++ cregCode cs ++ (0 : BitVec 4) ++ idx ++ (0 : BitVec 32)) ∧
  encode (.setpixc 1 .c2) = 0x1020000100000000

/-- R102: SETPIXRGBW writes four immediates to one pixel, or nothing when the index is out of range. -/
def Obligations.SetpixrgbwWritesOnePixel : Prop :=
  (∀ (s : State) (idx : PixIdx) (r g b w : Byte), PixelAccepted s →
    ∃ t, exec (.setpixrgbw idx r g b w) s = .next t ∧
      (idx.toNat < s.cfg.length → pixel idx.toNat t = { red := r, green := g, blue := b, white := w }) ∧
      (∀ a, a ≠ idx.toNat → pixel a t = pixel a s) ∧
      (s.cfg.length ≤ idx.toNat → t = s) ∧ t = { s with pix := t.pix }) ∧
  (∀ idx r g b : Nat, assemble (.setpixrgb idx r g b) = assemble (.setpixrgbw idx r g b 0)) ∧
  (∀ (idx : PixIdx) (r g b w : Byte),
    encode (.setpixrgbw idx r g b w) =
      (0x11 : BitVec 8) ++ (0 : BitVec 2) ++ (0 : BitVec 2) ++ (0 : BitVec 4) ++ idx ++ (r ++ g ++ b ++ w)) ∧
  encode (.setpixrgbw 1 10 10 10 0) = 0x110000010A0A0A00 ∧ encode (.setpixrgbw 3 9 9 9 9) = 0x1100000309090909

/-- R110: a pixel write with `idx >= LENGTH` completes and leaves every piece of state as it was. -/
def Obligations.OutOfRangeIndexChangesNothing : Prop :=
  ∀ (s : State) (idx : PixIdx), PixelAccepted s → s.cfg.length ≤ idx.toNat →
    (∀ cs, exec (.setpixc idx cs) s = .next s) ∧ (∀ r g b w, exec (.setpixrgbw idx r g b w) s = .next s)

/-- R103: CLEAR sets every pixel to (0,0,0,0) and touches nothing else. -/
def Obligations.ClearBlackensEveryPixel : Prop :=
  (∀ s : State, PixelAccepted s →
    ∃ t, exec .clear s = .next t ∧
      (∀ i, i < s.cfg.length → pixel i t = { red := 0, green := 0, blue := 0, white := 0 }) ∧
      (∀ i, s.cfg.length ≤ i → pixel i t = pixel i s) ∧ t = { s with pix := t.pix } ∧
      (s.cfg.length = 0 → t = s)) ∧
  encode .clear = 0x1200000000000000

/-- R111: a second CLEAR changes nothing, and after CLEAR a well-formed PIX is at its reset value. -/
def Obligations.ClearIsIdempotent : Prop :=
  (∀ s t : State, exec .clear s = .next t → exec .clear t = .next t) ∧
  (∀ s t : State, Memory.wf s = true → exec .clear s = .next t → t.pix = State.reset.pix)

/-- R108 and the frame of the pixel commands: every pixel but the one stored to (for CLEAR: every index outside the
strip) reads as before, and neither WAVE, INFLIGHT nor LINE, nor anything else but PIX, changes. SHOW alone hands the
peripheral a frame. -/
def Obligations.PixelCommandsFrame : Prop :=
  ∀ s t : State,
    (∀ idx cs, exec (.setpixc idx cs) s = .next t →
      (∀ a, (idxInRange idx s.cfg.length = true → a ≠ idx.toNat) → pixel a t = pixel a s) ∧
      t = { s with pix := t.pix }) ∧
    (∀ idx r g b w, exec (.setpixrgbw idx r g b w) s = .next t →
      (∀ a, (idxInRange idx s.cfg.length = true → a ≠ idx.toNat) → pixel a t = pixel a s) ∧
      t = { s with pix := t.pix }) ∧
    (exec .clear s = .next t →
      (∀ a, s.cfg.length ≤ a → pixel a t = pixel a s) ∧ t = { s with pix := t.pix }) ∧
    (∀ i, classOf i = .pixel → exec i s = .next t →
      t.wave = s.wave ∧ t.inflight = s.inflight ∧ t.line = s.line ∧ t.obs.calls = s.obs.calls ∧
      (∀ j, waveItem j t = waveItem j s) ∧ (∀ r, getReg r t = getReg r s)) ∧
    (∀ i, i ≠ .showStrip → exec i s = .next t →
      t.obs.calls = s.obs.calls ∧ t.obs.frames = s.obs.frames ∧ t.inflight = s.inflight ∧ t.busy = s.busy)

/-! ### Acceptance, responses, flags -/

/-- R100: a command is refused exactly when the conditions of its row do not hold (SHOW whose finite timeout
expires apart, 93 U11); an accepted command other than SHOW completes. -/
def Obligations.AcceptanceTable : Prop :=
  ∀ (i : Instr) (s : State),
    ((∃ r, exec i s = .refused r ∧ r ≠ .finiteTimeout) ↔ ¬AcceptedAs (classOf i) s) ∧
    (AcceptedAs (classOf i) s → i ≠ .showStrip → ∃ t, exec i s = .next t) ∧
    (∀ n, exec i s ≠ .refused (.notModelled n))

/-- R69: which commands answer, what they answer, and that every other command answers nothing. -/
def Obligations.ResponsesExactlyFromGetters : Prop :=
  ∀ (i : Instr) (s t : State), exec i s = .next t →
    (answers i = false → t.obs.responses = s.obs.responses) ∧
    (answers i = true → ∃ v, t.obs.responses = s.obs.responses ++ [v] ∧
      (∀ cd, i = .cget32 cd → v = pack (getReg cd s)) ∧
      (∀ cd, i = .cgetr cd → v = (getReg cd s).red.setWidth 32) ∧
      (∀ cd, i = .cgetg cd → v = (getReg cd s).green.setWidth 32) ∧
      (∀ cd, i = .cgetb cd → v = (getReg cd s).blue.setWidth 32) ∧
      (∀ cd, i = .cgetw cd → v = (getReg cd s).white.setWidth 32) ∧
      (i = .rdstat → v = statusWord s.ph s.status))

/-- R19, R17: the flags and the configuration change at a construction only, which needs LIVE = 0. -/
def Obligations.FlagsAndConfigChangeAtConstructionOnly : Prop :=
  ∀ s t : State, step s = .next t → (t.status ≠ s.status ∨ t.cfg ≠ s.cfg) →
    s.live = false ∧ ∃ a rest, s.env.port = .construct a :: rest

/-- Only SHOW touches the peripheral: no other command makes a call, hands off a frame or changes BUSY, INFLIGHT or LINE. -/
def Obligations.OnlyShowTouchesPeripheral : Prop :=
  ∀ (i : Instr) (s t : State), exec i s = .next t → i ≠ .showStrip →
    t.obs.calls = s.obs.calls ∧ t.obs.frames = s.obs.frames ∧ t.obs.phases = s.obs.phases ∧
    t.obs.diag = s.obs.diag ∧ t.busy = s.busy ∧ t.inflight = s.inflight ∧ t.emitPos = s.emitPos ∧
    t.line = s.line ∧ t.ph = s.ph

/-! ### MKWAVE and the line code -/

/-- R63: the two items of the line code for every configuration, which differ in a legal one, and their words for the
illustrative durations. -/
def Obligations.LineCodeItems : Prop :=
  (∀ c : InstanceConfig,
    itemOf c false = { level0 := 1, duration0 := c.t0h, level1 := 0, duration1 := c.t0l } ∧
    itemOf c true = { level0 := 1, duration0 := c.t1h, level1 := 0, duration1 := c.t1l } ∧
    itemOf c false = zeroItem c ∧ itemOf c true = oneItem c) ∧
  (∀ c : InstanceConfig, c.wellFormed = true →
    (zeroItem c).duration0.toNat < (oneItem c).duration0.toNat ∧ zeroItem c ≠ oneItem c) ∧
  (∀ c : InstanceConfig, c.t0h = 4 → c.t0l = 8 → c.t1h = 8 → c.t1l = 4 →
    itemWord (zeroItem c) = 0x00088004 ∧ itemWord (oneItem c) = 0x00048008)

/-- R120: MKWAVE leaves in WAVE what the loops over pixels, channels and bits write, and the loops end with
`j = LENGTH * 24`. -/
def Obligations.MkwaveMatchesLoops : Prop :=
  ∀ s : State, waveWf (nitems s.cfg) s.wave = true →
    mkwaveLoop s.cfg s.pix s.wave = (s.cfg.length * 24, (mkwave s).wave)

/-- R121: the closed form of WAVE after MKWAVE, and its independence of everything but PIX, LENGTH and the two items. -/
def Obligations.WaveformClosedForm : Prop :=
  (∀ (s : State) (p c k : Nat), p < s.cfg.length → c < 3 → k < 8 →
    waveItem (24 * p + 8 * c + k) (mkwave s) =
      some (if (if c = 0 then (pixel p s).green else if c = 1 then (pixel p s).red else (pixel p s).blue).getLsbD (7 - k)
        then oneItem s.cfg else zeroItem s.cfg)) ∧
  (∀ s s' : State, s.cfg.length = s'.cfg.length → zeroItem s.cfg = zeroItem s'.cfg → oneItem s.cfg = oneItem s'.cfg →
    (∀ p, p < s.cfg.length → pixel p s = pixel p s') →
      (mkwave s).wave = (mkwave s').wave ∧ encodeFrame s.cfg s.pix = encodeFrame s'.cfg s'.pix)

/-- R64: which bit of the packed colour each of the 24 items of a pixel encodes; white is not sent and a frame is the
pixels' items and nothing else. -/
def Obligations.FrameBitOrder : Prop :=
  (∀ (s : State) (p i : Nat), p < s.cfg.length → i < 24 →
    waveItem (24 * p + i) (mkwave s) =
      some (itemOf s.cfg ((pack (pixel p s)).getLsbD
        (if i < 8 then 23 - i else if i < 16 then 31 - (i - 8) else 15 - (i - 16))))) ∧
  (∀ (s : State) (j : Nat), s.cfg.length * 24 ≤ j → waveItem j (mkwave s) = none) ∧
  (∀ s : State, s.cfg.length = 0 → (mkwave s).wave = [])

/-- R124: MKWAVE writes exactly the indices below NITEMS, and NITEMS is the length of the frame that goes in flight and
the count passed to `transmit`. -/
def Obligations.WaveformLength : Prop :=
  (∀ (s : State) (j : Nat), (waveItem j (mkwave s)).isSome = true ↔ j < s.cfg.length * 24) ∧
  (∀ s t : State, exec .showStrip s = .next t → s.busy = false →
    t.inflight.length = s.cfg.length * 24 ∧
    t.obs.calls = s.obs.calls ++
      [.waitIdle s.cfg.channel s.cfg.waitTimeout, .transmit s.cfg.channel (s.cfg.length * 24) false])

/-- R123: a bit becomes ZERO_ITEM or ONE_ITEM, which differ in their durations alone, WAVE holds no other item, and no
command changes the two. -/
def Obligations.WaveHoldsLineItemsOnly : Prop :=
  (∀ c : InstanceConfig,
    itemOf c false = { level0 := 1, duration0 := c.t0h, level1 := 0, duration1 := c.t0l } ∧
    itemOf c true = { level0 := 1, duration0 := c.t1h, level1 := 0, duration1 := c.t1l } ∧
    (c.wellFormed = true → c.t0h.toNat < c.t1h.toNat)) ∧
  (∀ (s : State) (p c k : Nat), p < s.cfg.length → c < 3 → k < 8 →
    waveItem (24 * p + 8 * c + k) (mkwave s) =
      some (itemOf s.cfg
        ((if c = 0 then (pixel p s).green else if c = 1 then (pixel p s).red else (pixel p s).blue).getLsbD (7 - k)))) ∧
  (∀ (i : Instr) (s t : State), exec i s = .next t →
    zeroItem t.cfg = zeroItem s.cfg ∧ oneItem t.cfg = oneItem s.cfg) ∧
  (∀ (s : State) (j : Nat) (it : Item), waveItem j (mkwave s) = some it →
    it = { level0 := 1, duration0 := s.cfg.t0h, level1 := 0, duration1 := s.cfg.t0l } ∨
    it = { level0 := 1, duration0 := s.cfg.t1h, level1 := 0, duration1 := s.cfg.t1l }) ∧
  (∀ (s t : State) (j : Nat) (it : Item), exec .showStrip s = .next t → s.busy = false →
    waveItem j t = some it → it = zeroItem s.cfg ∨ it = oneItem s.cfg)

/-- R125: the frame does not depend on the white channel of any pixel, and white is stored all the same. -/
def Obligations.WhiteInvariance : Prop :=
  (∀ s s' : State, s.cfg = s'.cfg →
    (∀ p, p < s.cfg.length → (pixel p s).red = (pixel p s').red ∧ (pixel p s).green = (pixel p s').green ∧
      (pixel p s).blue = (pixel p s').blue) →
    encodeFrame s.cfg s.pix = encodeFrame s'.cfg s'.pix ∧ (mkwave s).wave = (mkwave s').wave) ∧
  (∀ (s t u : State) (idx : PixIdx) (w : Byte), idx.toNat < s.cfg.length →
    exec .clear s = .next t → exec (.setpixrgbw idx 0 0 0 w) t = .next u →
      (mkwave u).wave = (mkwave t).wave ∧ (pixel idx.toNat u).white = w) ∧
  (∀ (s t : State) (cd : CReg) (v : Byte), exec (.csetw cd v) s = .next t →
    ∃ u u' x, exec (.cgetw cd) t = .next u ∧ u.obs.responses = s.obs.responses ++ [(0 : BitVec 24) ++ v] ∧
      exec (.cget32 cd) t = .next u' ∧ u'.obs.responses = s.obs.responses ++ [x] ∧ x.extractLsb' 0 8 = v)

/-- R134: the source's worked example, for every white value and all durations. -/
def Obligations.RedPixelExample : Prop :=
  ∀ (c : InstanceConfig) (w : Byte),
    encodePixel c { red := 0xFF, green := 0, blue := 0, white := w } =
      List.replicate 8 (zeroItem c) ++ List.replicate 8 (oneItem c) ++ List.replicate 8 (zeroItem c)

/-- R133: the duration of a frame from its numbers of one-bits and zero-bits. -/
def Obligations.FrameDurationFormula : Prop :=
  ∀ (c : InstanceConfig) (pix : Cells Color) (n1 : Nat), c.wellFormed = true →
    n1 = (encodeFrame c pix).countP (fun it => decide (it = oneItem c)) →
      frameTicks (encodeFrame c pix) =
        (c.length * 24 - n1) * (c.t0h.toNat + c.t0l.toNat) + n1 * (c.t1h.toNat + c.t1l.toNat)

/-- 20_memory R47 items 1 and 2: a pixel written before a SHOW is the pixel that SHOW encodes, at the index of R42. -/
def Obligations.PixelWriteReachesNextFrame : Prop :=
  ∀ (s t u : State) (idx : PixIdx) (r g b w : Byte) (bit : Nat), idx.toNat < s.cfg.length → bit < 8 →
    exec (.setpixrgbw idx r g b w) s = .next t → s.busy = false → exec .showStrip t = .next u →
      waveItem (24 * idx.toNat + (7 - bit)) u = some (itemOf s.cfg (g.getLsbD bit)) ∧
      waveItem (24 * idx.toNat + 8 + (7 - bit)) u = some (itemOf s.cfg (r.getLsbD bit)) ∧
      waveItem (24 * idx.toNat + 16 + (7 - bit)) u = some (itemOf s.cfg (b.getLsbD bit))

/-! ### SHOW and the peripheral -/

/-- 41_strip section 3: SHOW with an idle peripheral that answers Ok encodes the frame, hands it off and completes in
PH = TX; PIX, the registers, the flags and everything else not named are unchanged. -/
def Obligations.ShowCompletesWhenPeripheralIdle : Prop :=
  ∀ s : State, ShowAccepted s → s.busy = false → PeripheralAnswersOk s →
    ∃ t, exec .showStrip s = .next t ∧
      t.inflight = encodeFrame s.cfg s.pix ∧
      (∀ j, waveItem j t = (encodeFrame s.cfg s.pix)[j]?) ∧
      (∀ a, pixel a t = pixel a s) ∧
      t = { s with
        ph := .tx
        wave := t.wave
        busy := true
        inflight := t.inflight
        emitPos := 0
        env := { s.env with waitAnswers := s.env.waitAnswers.tail, txAnswers := s.env.txAnswers.tail }
        obs := { s.obs with
          diag := s.obs.diag ++ [.frameBits (s.cfg.length * 24)]
          frames := s.obs.frames ++ [t.inflight]
          calls := s.obs.calls ++
            [.waitIdle s.cfg.channel s.cfg.waitTimeout, .transmit s.cfg.channel (s.cfg.length * 24) false] } }

/-- 41_strip section 3: SHOW with BUSY = 1 blocks in PH = WAIT with nothing written; the timeout path of a finite
timeout has no meaning (93 U11; log 15). -/
def Obligations.ShowWaitsWhileBusy : Prop :=
  ∀ s : State, ShowAccepted s → s.busy = true →
    (waitTimesOut s = false →
      exec .showStrip s =
        .next { s with
          ph := .wait
          obs := { s.obs with calls := s.obs.calls ++ [.waitIdle s.cfg.channel s.cfg.waitTimeout] } }) ∧
    (s.cfg.waitTimeout = .forever → waitTimesOut s = false) ∧
    (∀ n rest, s.cfg.waitTimeout = .finite n → s.env.waitAnswers = .err :: rest →
      exec .showStrip s = .refused .finiteTimeout)

/-- R149: any answer other than Ok from `waitIdle` or `transmit` inside SHOW is a fault, also in a SHOW that has waited. -/
def Obligations.PeripheralErrorInShowFaults : Prop :=
  (∀ s : State, ShowAccepted s → s.busy = false →
    (∀ rest, s.env.waitAnswers = .err :: rest → exec .showStrip s = .fault .waitIdleError) ∧
    (∀ rest, nextAnswer s.env.waitAnswers = .ok → s.env.txAnswers = .err :: rest →
      (s.cfg.length ≠ 0 ∨ s.cfg.zeroCountTxOk = true) → exec .showStrip s = .fault .transmitError)) ∧
  (∀ s : State, s.ph = .wait → s.busy = false →
    (∀ rest, s.env.waitAnswers = .err :: rest → blockTurn s = .fault .waitIdleError) ∧
    (∀ rest, nextAnswer s.env.waitAnswers = .ok → s.env.txAnswers = .err :: rest →
      (s.cfg.length ≠ 0 ∨ s.cfg.zeroCountTxOk = true) → blockTurn s = .fault .transmitError))

/-- 41_strip section 3: SHOW on a strip of length 0 hands off an empty frame, the completion event may follow at once, and
nothing is emitted (R109). Where ZERO_COUNT_TX_OK is false it faults: that is 93 U9 and 92 D17 as the model reads them (log 14,
DEDUCED), not R109. -/
def Obligations.ShowOfEmptyStrip : Prop :=
  ∀ s : State, ShowAccepted s → s.busy = false → s.cfg.length = 0 → s.line = 0 →
    nextAnswer s.env.waitAnswers = .ok → nextAnswer s.env.txAnswers = .ok →
    (s.cfg.zeroCountTxOk = true → ∃ t, exec .showStrip s = .next t ∧ t.inflight = [] ∧ t.wave = [] ∧
      t.busy = true ∧ t.ph = .tx ∧ t.line = 0 ∧
      t.obs.calls = s.obs.calls ++
        [.waitIdle s.cfg.channel s.cfg.waitTimeout, .transmit s.cfg.channel 0 false] ∧
      (peripheralTurn t).busy = false ∧ (peripheralTurn t).ph = .idle ∧ (peripheralTurn t).line = 0 ∧
      (peripheralTurn t).obs.phases = s.obs.phases) ∧
    (s.cfg.zeroCountTxOk = false → exec .showStrip s = .fault .zeroCountRejected)

/-- The frame of SHOW, whether it completes or waits: PIX, the Color registers, the flags, the configuration, LINE, LIVE and
the responses are as before; WAVE changes only if the frame was handed off. -/
def Obligations.ShowFrame : Prop :=
  ∀ s t : State, exec .showStrip s = .next t →
    t = { s with
      ph := t.ph
      wave := t.wave
      busy := t.busy
      inflight := t.inflight
      emitPos := t.emitPos
      env := { s.env with waitAnswers := t.env.waitAnswers, txAnswers := t.env.txAnswers }
      obs := { s.obs with diag := t.obs.diag, frames := t.obs.frames, calls := t.obs.calls } } ∧
    (∀ a, pixel a t = pixel a s) ∧ (∀ r, getReg r t = getReg r s) ∧
    ((s.busy = true ∧ t.ph = .wait ∧ t.wave = s.wave ∧ t.inflight = s.inflight ∧ t.emitPos = s.emitPos ∧
        t.obs.frames = s.obs.frames ∧ t.obs.diag = s.obs.diag) ∨
      (s.busy = false ∧ t.ph = .tx ∧ t.busy = true))

/-- R130: after the last phase the completion event clears BUSY, empties INFLIGHT and leaves LINE low; TX becomes IDLE and
WAIT stays; before, an event drives the next phase of the frame on LINE and changes nothing else. The count of phases driven
is the model's (log 10), and that PH stays in IDLE and ENC is its choice (log 31). -/
def Obligations.CompletionEvent : Prop :=
  ∀ s : State, s.busy = true →
    (2 * s.inflight.length ≤ s.emitPos →
      peripheralTurn s =
        { s with
          busy := false
          inflight := []
          emitPos := 0
          line := 0
          ph := if s.ph = .tx then .idle else s.ph }) ∧
    (s.emitPos < 2 * s.inflight.length →
      ∃ it p, s.inflight[s.emitPos / 2]? = some it ∧
        p = (if s.emitPos % 2 = 0 then { level := it.level0, duration := it.duration0 }
          else { level := it.level1, duration := it.duration1 } : Phase) ∧
        peripheralTurn s =
          { s with
            line := p.level
            emitPos := s.emitPos + 1
            obs := { s.obs with phases := s.obs.phases ++ [p] } })

/-- R129: from the hand-off on, the peripheral's turns drive the two phases of every item in index order, LINE at the
level of the last phase driven, and then the completion event ends the frame with LINE low. One phase a turn is the model's grain
(log 10). -/
def Obligations.PeripheralEmitsWholeFrame : Prop :=
  ∀ s : State, s.busy = true → s.emitPos = 0 →
    (∀ n, n ≤ 2 * s.inflight.length →
      ((peripheralTurn^[n]) s).obs.phases =
        s.obs.phases ++ (s.inflight.flatMap (fun it =>
          [{ level := it.level0, duration := it.duration0 }, { level := it.level1, duration := it.duration1 }])).take n ∧
      ((peripheralTurn^[n]) s).busy = true ∧ ((peripheralTurn^[n]) s).inflight = s.inflight ∧
      (0 < n → some ((peripheralTurn^[n]) s).line = ((framePhases s.inflight)[n - 1]?).map (fun p => p.level))) ∧
    ((peripheralTurn^[2 * s.inflight.length + 1]) s).busy = false ∧
    ((peripheralTurn^[2 * s.inflight.length + 1]) s).line = 0 ∧
    ((peripheralTurn^[2 * s.inflight.length + 1]) s).obs.phases = s.obs.phases ++ framePhases s.inflight

/-- R104, R107, R130: a SHOW that waits in PH = WAIT completes on the block's first turn with BUSY = 0, whatever the schedule,
with the frame of the pixels as they are; so it completes under every interleaving of the block's turns with the events the
peripheral still has to make, and, with no schedule left, in the model's default order (log 2: the fairness of R130). That one
turn of the peripheral drives one phase, so that 2 * NITEMS - emitPos turns and one for the completion event are left, also in
the middle of a frame, is the model's grain (log 10). -/
def Obligations.WaitingShowCompletes : Prop :=
  (∀ s : State, s.ph = .wait → s.busy = false → PeripheralAnswersOk s →
    ∃ t, blockTurn s = .next t ∧
      t.inflight = encodeFrame s.cfg s.pix ∧ (∀ j, waveItem j t = (encodeFrame s.cfg s.pix)[j]?) ∧
      t = { s with
        ph := .tx
        wave := t.wave
        busy := true
        inflight := t.inflight
        emitPos := 0
        env := { s.env with waitAnswers := s.env.waitAnswers.tail, txAnswers := s.env.txAnswers.tail }
        obs := { s.obs with
          diag := s.obs.diag ++ [.frameBits (s.cfg.length * 24)]
          frames := s.obs.frames ++ [t.inflight]
          calls := s.obs.calls ++ [.transmit s.cfg.channel (s.cfg.length * 24) false] } }) ∧
  (∀ s : State, turnOf s = .block → step s = blockTurn (endTurn s)) ∧
  (∀ (s : State) (turns rest : List Agent), Inv s → s.ph = .wait → s.busy = true → PeripheralAnswersOk s →
    s.env.sched = turns ++ .peripheral :: .block :: rest →
    turns.count .peripheral = 2 * s.inflight.length - s.emitPos →
      ∃ t : State, Host.Core.run Sys2Proof.core (turns.length + 2) s = .next t ∧
        t.ph = .tx ∧ t.busy = true ∧ t.inflight = encodeFrame s.cfg s.pix ∧
        t.obs.phases = s.obs.phases ++ (framePhases s.inflight).drop s.emitPos ∧
        t.obs.frames = s.obs.frames ++ [t.inflight] ∧ t.pix = s.pix ∧ t.env.port = s.env.port ∧ t.env.sched = rest) ∧
  ∀ s : State, Inv s → s.ph = .wait → s.busy = true → PeripheralAnswersOk s → s.env.sched = [] →
    ∃ t : State, Host.Core.run Sys2Proof.core (2 * s.inflight.length - s.emitPos + 2) s = .next t ∧
      t.ph = .tx ∧ t.busy = true ∧ t.inflight = encodeFrame s.cfg s.pix ∧
      t.obs.phases = s.obs.phases ++ (framePhases s.inflight).drop s.emitPos ∧
      t.obs.frames = s.obs.frames ++ [t.inflight] ∧ t.pix = s.pix ∧ t.env.port = s.env.port

/-- R177: while the peripheral does not move, a waiting SHOW stays in PH = WAIT for as many turns as the block takes: no
command is accepted, nothing faults, nothing but the schedule changes. That the stuck state answers next states which only
use up the schedule is the model's form of it (log 19, with log 1). -/
def Obligations.WaitingShowHangs : Prop :=
  ∀ (n : Nat) (s : State) (rest : List Agent), s.ph = .wait → s.busy = true → s.cfg.waitTimeout = .forever →
    s.env.sched = List.replicate n .block ++ rest →
      Host.Core.run Sys2Proof.core n s = .next { s with env := { s.env with sched := rest } }

/-- R107: the transitions of PH that a step can make, with the event each needs. WAIT and ENC are passed inside one step
when nothing is in flight (92 D18). -/
def Obligations.PhaseTransitions : Prop :=
  ∀ s t : State, Inv s → step s = .next t →
    (s.ph = .idle → t.ph = .idle ∨
      (t.ph = .tx ∧ turnOf s = .block ∧ ∃ w rest, s.env.port = .command w :: rest ∧ decode w = .ok .showStrip)) ∧
    (s.ph = .tx → t.ph = .tx ∨
      (t.ph = .wait ∧ turnOf s = .block ∧
        ∃ w rest, s.env.port = .command w :: rest ∧ decode w = .ok .showStrip) ∨
      (t.ph = .idle ∧ turnOf s = .peripheral ∧ s.busy = true ∧ t.busy = false)) ∧
    (s.ph = .wait → t.ph = .wait ∨ (t.ph = .tx ∧ turnOf s = .block ∧ s.busy = false)) ∧
    (s.ph = .enc → t.ph = .enc ∨ (t.ph = .tx ∧ turnOf s = .block))

/-- 70_reset section 3 and 42_encoder section 2: after a clean set-up, WAVE is not written while the peripheral reads it, and
no command cancels or shortens the frame in flight: only the peripheral, having driven every phase, ends it. The count of
phases driven, emitPos, is the model's own (log 10). -/
def Obligations.FrameInFlightIsProtected : Prop :=
  ∀ s t : State, Inv s → PeripheralReady s → s.busy = true → step s = .next t →
    t.wave = s.wave ∧ (t.busy = true → t.inflight = s.inflight) ∧
    (t.busy = false → turnOf s = .peripheral ∧ s.emitPos = 2 * s.inflight.length ∧ t.inflight = [])

/-- 60_exceptions R148, 20_memory R47: an event of the peripheral and a Color or pixel command can be taken in either
order with the same result. -/
def Obligations.PeripheralEventCommutesWithCommands : Prop :=
  ∀ (i : Instr) (s t : State), classOf i = .color ∨ classOf i = .pixel → exec i s = .next t →
    exec i (peripheralTurn s) = .next (peripheralTurn t)

/-! ### DESTROY, RDSTAT, construction -/

/-- R105: DESTROY in PH = IDLE clears LIVE, leaves `cr`, PIX and WAVE with contents nothing is said of, makes no call, and
every later command is refused; in PH = TX it is refused. -/
def Obligations.DestroyEndsInstance : Prop :=
  (∀ s : State, s.live = true → s.ph = .idle →
    ∃ t, exec .destroy s = .next t ∧
      t = { s with live := false, cr := t.cr, pix := t.pix, wave := t.wave, draw := t.draw } ∧
      (∀ i, exec i t = .refused .notLive)) ∧
  (∀ s : State, s.live = true → s.ph = .tx → exec .destroy s = .refused .destroyInFlight) ∧
  encode .destroy = 0x1400000000000000

/-- R106 and R70: RDSTAT answers the STATUS word and writes no state; its phase field can read 0 or 3 only. -/
def Obligations.RdstatRespondsStatusWord : Prop :=
  (∀ s : State, s.live = true → PortIsFree s →
    ∃ v : Word, exec .rdstat s =
        .next { s with obs := { s.obs with responses := s.obs.responses ++ [v] } } ∧
      v.extractLsb' 6 26 = 0 ∧ v.getLsbD 3 = false ∧ v.getLsbD 2 = s.status.installErr ∧
      v.getLsbD 1 = s.status.cfgErr ∧ v.getLsbD 0 = s.status.allocFail ∧
      (s.ph = .idle → v.extractLsb' 4 2 = 0) ∧ (s.ph = .tx → v.extractLsb' 4 2 = 3)) ∧
  (phCode .idle = 0 ∧ phCode .wait = 1 ∧ phCode .enc = 2 ∧ phCode .tx = 3) ∧
  encode .rdstat = 0x1500000000000000

/-- R26: the state after a construction in which nothing failed, for every legal configuration. -/
def Obligations.CleanConstructionState : Prop :=
  ∀ (a : ConstructArgs) (s : State), s.live = false → a.cfg.wellFormed = true →
    a.allocPixOk = true → a.allocWaveOk = true → a.cfgResult = .ok → a.installResult = .ok →
    ∃ t, hostConstruct a s = .next t ∧
      (∀ r, getReg r t = { red := 0, green := 0, blue := 0, white := 0 }) ∧
      (∀ i, i < t.cfg.length → pixel i t = { red := 0, green := 0, blue := 0, white := 0 }) ∧
      t.ph = .idle ∧ t.status = { allocFail := false, cfgErr := false, installErr := false } ∧ t.live = true ∧
      t.busy = false ∧ t.inflight = [] ∧ t.line = 0 ∧ t.obs.diag = [] ∧ t.cfg = a.cfg ∧
      t.obs.calls = s.obs.calls ++
        [.configure a.cfg.pin a.cfg.channel a.cfg.clkdiv .oneShot 0 true false, .install a.cfg.channel]

/-- 60_exceptions sections 1 and 3: with LIVE = 0 and legal parameters a construction is accepted whatever fails; each
failure sets its own flag and emits its own diagnostic, in the order of the steps, and none stops the sequence. One with
illegal parameters is refused (93 U13; log 24). -/
def Obligations.ConstructionFlagsIndependent : Prop :=
  ∀ (a : ConstructArgs) (s : State),
    (s.live = false → a.cfg.wellFormed = true → hostConstruct a s = .next (construct a s)) ∧
    (s.live = false → a.cfg.wellFormed = false → hostConstruct a s = .refused .illegalConfig) ∧
    (construct a s).status =
      { allocFail := !(a.allocPixOk && a.allocWaveOk)
        cfgErr := decide (a.cfgResult = .err)
        installErr := decide (a.installResult = .err) } ∧
    (construct a s).obs.diag =
      (if a.allocPixOk then [] else [.allocFail .pixels]) ++ (if a.allocWaveOk then [] else [.allocFail .waveform]) ++
      (if a.cfgResult = .ok then [] else [.cfgErr]) ++ (if a.installResult = .ok then [] else [.installErr]) ∧
    (construct a s).live = true ∧ (construct a s).ph = .idle ∧ (construct a s).cfg = a.cfg ∧
    (construct a s).obs.calls = s.obs.calls ++
      [.configure a.cfg.pin a.cfg.channel a.cfg.clkdiv .oneShot 0 true false, .install a.cfg.channel]

/-- 70_reset section 1: after a failed `configure` or `install` with both arrays allocated, registers, pixels, PH and LIVE
are as in the clean case, Color and pixel commands and DESTROY work, and SHOW is refused. -/
def Obligations.FailedSetupLeavesPixelsUsable : Prop :=
  ∀ (a : ConstructArgs) (s : State), a.allocPixOk = true → a.allocWaveOk = true →
    (a.cfgResult = .err ∨ a.installResult = .err) →
    (∀ r, getReg r (construct a s) = black) ∧ (∀ i, pixel i (construct a s) = black) ∧
    (construct a s).ph = .idle ∧ (construct a s).live = true ∧
    exec .showStrip (construct a s) = .refused .peripheralNotReady ∧
    (∀ i, i ≠ .showStrip → ∃ t, exec i (construct a s) = .next t)

/-- 70_reset section 1: a construction after DESTROY leaves nothing of the old instance, whatever fails in it. Two dead
states end with the same parameters, flags, PH, LIVE, WAVE and DIAG; the same registers and pixels if both arrays were
allocated, and the same BUSY, INFLIGHT and LINE if the peripheral was set up: what is left of these is unspecified (R171; free
values, log 8, 9). After a clean construction the whole states agree but for the model's draws, inputs and observations
(log 28). A construction with LIVE = 1 is refused. -/
def Obligations.ReconstructionForgetsOldInstance : Prop :=
  (∀ (a : ConstructArgs) (s s' : State), s.live = false → s'.live = false → a.cfg.wellFormed = true →
    ∃ t t', hostConstruct a s = .next t ∧ hostConstruct a s' = .next t' ∧
      t'.cfg = t.cfg ∧ t'.status = t.status ∧ t'.ph = t.ph ∧ t'.live = t.live ∧ t'.wave = t.wave ∧
      t'.emitPos = t.emitPos ∧ t'.obs.diag = t.obs.diag ∧
      (a.allocPixOk = true → a.allocWaveOk = true → t'.cr = t.cr ∧ t'.pix = t.pix) ∧
      (a.cfgResult = .ok → a.installResult = .ok →
        t'.busy = t.busy ∧ t'.inflight = t.inflight ∧ t'.line = t.line) ∧
      (a.allocPixOk = true → a.allocWaveOk = true → a.cfgResult = .ok → a.installResult = .ok →
        t' = { t with draw := t'.draw, env := t'.env, obs := t'.obs })) ∧
  (∀ (a : ConstructArgs) (s : State), s.live = true → hostConstruct a s = .refused .constructWhileLive)

/-- The frame of DESTROY and RDSTAT when they answer a next state. -/
def Obligations.DestroyAndRdstatFrame : Prop :=
  (∀ s t : State, exec .destroy s = .next t →
    t = { s with live := false, cr := t.cr, pix := t.pix, wave := t.wave, draw := t.draw }) ∧
  (∀ s t : State, exec .rdstat s = .next t →
    t = { s with obs := { s.obs with responses := t.obs.responses } } ∧
    (∀ r, getReg r t = getReg r s) ∧ (∀ a, pixel a t = pixel a s) ∧ (∀ j, waveItem j t = waveItem j s))
end

