-- ==== Sys2Proof/Laws/Encoding.lean ====
section
/-! SUPPORT. The fields of a command word: taking a word apart and putting it together are inverse, and a bitwise and works
field by field. -/

namespace Sys2Proof

@[simp] theorem fieldsOf_wordOf (f : Fields) : fieldsOf (wordOf f) = f := by
  cases f
  simp only [fieldsOf, wordOf, Fields.mk.injEq]
  refine ⟨?_, ?_, ?_, ?_, ?_, ?_⟩ <;> ext i hi <;> simp [BitVec.getElem_extractLsb'] <;> grind

@[simp] theorem wordOf_fieldsOf (w : CmdWord) : wordOf (fieldsOf w) = w := by
  simp only [fieldsOf, wordOf]
  ext i hi
  grind

/-- The word of fields as a number (30_encoding R65). -/
theorem toNat_wordOf (f : Fields) :
    (wordOf f).toNat =
      f.op.toNat * 2 ^ 56 + f.cd.toNat * 2 ^ 54 + f.cs.toNat * 2 ^ 52 + f.rsv.toNat * 2 ^ 48 + f.idx.toNat * 2 ^ 32 +
        f.imm.toNat := by
  have h1 := f.cd.isLt
  have h2 := f.cs.isLt
  have h3 := f.rsv.isLt
  have h4 := f.idx.isLt
  have h5 := f.imm.isLt
  simp only [wordOf, BitVec.toNat_append]
  rw [← Nat.shiftLeft_add_eq_or_of_lt h1, ← Nat.shiftLeft_add_eq_or_of_lt h2, ← Nat.shiftLeft_add_eq_or_of_lt h3,
    ← Nat.shiftLeft_add_eq_or_of_lt h4, ← Nat.shiftLeft_add_eq_or_of_lt h5]
  simp only [Nat.shiftLeft_eq]
  omega

/-- Four channel immediates as a number (30_encoding R66). -/
theorem toNat_immRgbw (r g b w : Byte) :
    (immRgbw r g b w).toNat = r.toNat * 2 ^ 24 + g.toNat * 2 ^ 16 + b.toNat * 2 ^ 8 + w.toNat := by
  have h1 := g.isLt
  have h2 := b.isLt
  have h3 := w.isLt
  simp only [immRgbw, BitVec.toNat_append]
  rw [← Nat.shiftLeft_add_eq_or_of_lt h1, ← Nat.shiftLeft_add_eq_or_of_lt h2, ← Nat.shiftLeft_add_eq_or_of_lt h3]
  simp only [Nat.shiftLeft_eq]
  omega

theorem toNat_immByte (v : Byte) : (immByte v).toNat = v.toNat := by
  rw [immByte, BitVec.toNat_append]
  simp

theorem wordOf_injective {f g : Fields} (h : wordOf f = wordOf g) : f = g := by
  simpa using congrArg fieldsOf h

/-- Bitwise and of two words, field by field. -/
def andFields (f g : Fields) : Fields where
  op := f.op &&& g.op
  cd := f.cd &&& g.cd
  cs := f.cs &&& g.cs
  rsv := f.rsv &&& g.rsv
  idx := f.idx &&& g.idx
  imm := f.imm &&& g.imm

theorem wordOf_and (f g : Fields) : wordOf f &&& wordOf g = wordOf (andFields f g) := by
  simp only [wordOf, andFields]
  repeat rw [BitVec.and_append]

theorem and_eq_iff (w mask row : CmdWord) :
    w &&& mask = row ↔ andFields (fieldsOf w) (fieldsOf mask) = fieldsOf row := by
  rw [← wordOf_fieldsOf w, ← wordOf_fieldsOf mask, ← wordOf_fieldsOf row, wordOf_and]
  simp only [fieldsOf_wordOf]
  exact ⟨wordOf_injective, congrArg wordOf⟩

@[simp] theorem cregOf_cregCode (r : CReg) : cregOf (cregCode r) = r := by cases r <;> rfl

@[simp] theorem cregCode_cregOf (n : BitVec 2) : cregCode (cregOf n) = n := by revert n; decide

theorem ifUnusedZero_ok {zero : Bool} {i j : Instr} :
    ifUnusedZero zero i = .ok j ↔ zero = true ∧ i = j := by
  cases zero <;> simp [ifUnusedZero]

theorem ite_ok {c : Prop} [Decidable c] {a b : Except DecodeError Instr} {i : Instr}
    (h : (if c then a else b) = .ok i) : (c ∧ a = .ok i) ∨ (¬c ∧ b = .ok i) := by
  by_cases hc : c
  · exact .inl ⟨hc, by rwa [if_pos hc] at h⟩
  · exact .inr ⟨hc, by rwa [if_neg hc] at h⟩

/-- Everything the decoder can answer: one disjunct for each row of R67. -/
theorem decodeFields_cases {f : Fields} {i : Instr} (h : decodeFields f = .ok i) :
    (f.op = 0x01 ∧ f.zeroImm = true ∧ (.csetrgbw (cregOf f.cd) f.immR f.immG f.immB f.immW) = i) ∨
      (f.op = 0x02 ∧ f.zeroTwoReg = true ∧ (.csetcolor (cregOf f.cd) (cregOf f.cs)) = i) ∨
      (f.op = 0x03 ∧ f.zeroImm = true ∧ (.cset32 (cregOf f.cd) f.imm) = i) ∨
      (f.op = 0x04 ∧ f.zeroReg = true ∧ (.cget32 (cregOf f.cd)) = i) ∨
      (f.op = 0x05 ∧ f.zeroByte = true ∧ (.csetr (cregOf f.cd) f.immW) = i) ∨
      (f.op = 0x06 ∧ f.zeroByte = true ∧ (.csetg (cregOf f.cd) f.immW) = i) ∨
      (f.op = 0x07 ∧ f.zeroByte = true ∧ (.csetb (cregOf f.cd) f.immW) = i) ∨
      (f.op = 0x08 ∧ f.zeroByte = true ∧ (.csetw (cregOf f.cd) f.immW) = i) ∨
      (f.op = 0x09 ∧ f.zeroReg = true ∧ (.cgetr (cregOf f.cd)) = i) ∨
      (f.op = 0x0A ∧ f.zeroReg = true ∧ (.cgetg (cregOf f.cd)) = i) ∨
      (f.op = 0x0B ∧ f.zeroReg = true ∧ (.cgetb (cregOf f.cd)) = i) ∨
      (f.op = 0x0C ∧ f.zeroReg = true ∧ (.cgetw (cregOf f.cd)) = i) ∨
      (f.op = 0x10 ∧ f.zeroPixReg = true ∧ (.setpixc f.idx (cregOf f.cs)) = i) ∨
      (f.op = 0x11 ∧ f.zeroPixImm = true ∧ (.setpixrgbw f.idx f.immR f.immG f.immB f.immW) = i) ∨
      (f.op = 0x12 ∧ f.zeroN = true ∧ .clear = i) ∨
      (f.op = 0x13 ∧ f.zeroN = true ∧ .showStrip = i) ∨
      (f.op = 0x14 ∧ f.zeroN = true ∧ .destroy = i) ∨
      (f.op = 0x15 ∧ f.zeroN = true ∧ .rdstat = i) := by
  unfold decodeFields at h
  rcases ite_ok h with ⟨ho, h⟩ | ⟨-, h⟩
  · exact .inl ⟨ho, ifUnusedZero_ok.mp h⟩
  rcases ite_ok h with ⟨ho, h⟩ | ⟨-, h⟩
  · exact .inr <| .inl ⟨ho, ifUnusedZero_ok.mp h⟩
  rcases ite_ok h with ⟨ho, h⟩ | ⟨-, h⟩
  · exact .inr <| .inr <| .inl ⟨ho, ifUnusedZero_ok.mp h⟩
  rcases ite_ok h with ⟨ho, h⟩ | ⟨-, h⟩
  · exact .inr <| .inr <| .inr <| .inl ⟨ho, ifUnusedZero_ok.mp h⟩
  rcases ite_ok h with ⟨ho, h⟩ | ⟨-, h⟩
  · exact .inr <| .inr <| .inr <| .inr <| .inl ⟨ho, ifUnusedZero_ok.mp h⟩
  rcases ite_ok h with ⟨ho, h⟩ | ⟨-, h⟩
  · exact .inr <| .inr <| .inr <| .inr <| .inr <| .inl ⟨ho, ifUnusedZero_ok.mp h⟩
  rcases ite_ok h with ⟨ho, h⟩ | ⟨-, h⟩
  · exact .inr <| .inr <| .inr <| .inr <| .inr <| .inr <| .inl ⟨ho, ifUnusedZero_ok.mp h⟩
  rcases ite_ok h with ⟨ho, h⟩ | ⟨-, h⟩
  · exact .inr <| .inr <| .inr <| .inr <| .inr <| .inr <| .inr <| .inl ⟨ho, ifUnusedZero_ok.mp h⟩
  rcases ite_ok h with ⟨ho, h⟩ | ⟨-, h⟩
  · exact .inr <| .inr <| .inr <| .inr <| .inr <| .inr <| .inr <| .inr <| .inl ⟨ho, ifUnusedZero_ok.mp h⟩
  rcases ite_ok h with ⟨ho, h⟩ | ⟨-, h⟩
  · exact .inr <| .inr <| .inr <| .inr <| .inr <| .inr <| .inr <| .inr <| .inr <| .inl ⟨ho, ifUnusedZero_ok.mp h⟩
  rcases ite_ok h with ⟨ho, h⟩ | ⟨-, h⟩
  · exact .inr <| .inr <| .inr <| .inr <| .inr <| .inr <| .inr <| .inr <| .inr <| .inr <| .inl ⟨ho, ifUnusedZero_ok.mp h⟩
  rcases ite_ok h with ⟨ho, h⟩ | ⟨-, h⟩
  · exact .inr <| .inr <| .inr <| .inr <| .inr <| .inr <| .inr <| .inr <| .inr <| .inr <| .inr <| .inl ⟨ho, ifUnusedZero_ok.mp h⟩
  rcases ite_ok h with ⟨ho, h⟩ | ⟨-, h⟩
  · exact .inr <| .inr <| .inr <| .inr <| .inr <| .inr <| .inr <| .inr <| .inr <| .inr <| .inr <| .inr <| .inl ⟨ho, ifUnusedZero_ok.mp h⟩
  rcases ite_ok h with ⟨ho, h⟩ | ⟨-, h⟩
  · exact .inr <| .inr <| .inr <| .inr <| .inr <| .inr <| .inr <| .inr <| .inr <| .inr <| .inr <| .inr <| .inr <| .inl ⟨ho, ifUnusedZero_ok.mp h⟩
  rcases ite_ok h with ⟨ho, h⟩ | ⟨-, h⟩
  · exact .inr <| .inr <| .inr <| .inr <| .inr <| .inr <| .inr <| .inr <| .inr <| .inr <| .inr <| .inr <| .inr <| .inr <| .inl ⟨ho, ifUnusedZero_ok.mp h⟩
  rcases ite_ok h with ⟨ho, h⟩ | ⟨-, h⟩
  · exact .inr <| .inr <| .inr <| .inr <| .inr <| .inr <| .inr <| .inr <| .inr <| .inr <| .inr <| .inr <| .inr <| .inr <| .inr <| .inl ⟨ho, ifUnusedZero_ok.mp h⟩
  rcases ite_ok h with ⟨ho, h⟩ | ⟨-, h⟩
  · exact .inr <| .inr <| .inr <| .inr <| .inr <| .inr <| .inr <| .inr <| .inr <| .inr <| .inr <| .inr <| .inr <| .inr <| .inr <| .inr <| .inl ⟨ho, ifUnusedZero_ok.mp h⟩
  rcases ite_ok h with ⟨ho, h⟩ | ⟨-, h⟩
  · exact .inr <| .inr <| .inr <| .inr <| .inr <| .inr <| .inr <| .inr <| .inr <| .inr <| .inr <| .inr <| .inr <| .inr <| .inr <| .inr <| .inr <| ⟨ho, ifUnusedZero_ok.mp h⟩
  cases h

end Sys2Proof
end

