-- ==== Sys2Proof/Laws/Assembler.lean ====
section
/-! SUPPORT. What the assembler reads: numbers, trimmed words, operands between commas, and the line they make. -/

namespace Sys2Proof.Machine

theorem mem_decimalDigits {c : Char} (h : c ∈ decimalDigits) :
    c = '0' ∨ c = '1' ∨ c = '2' ∨ c = '3' ∨ c = '4' ∨ c = '5' ∨ c = '6' ∨ c = '7' ∨ c = '8' ∨ c = '9' := by
  simpa [decimalDigits] using h

theorem mem_hexDigits {c : Char} (h : c ∈ hexDigits) :
    c ∈ decimalDigits ∨ c = 'A' ∨ c = 'B' ∨ c = 'C' ∨ c = 'D' ∨ c = 'E' ∨ c = 'F' := by
  simpa [hexDigits] using h

theorem digitValue_decimal {c : Char} (h : c ∈ decimalDigits) : digitValue 10 c = some (decimalDigits.idxOf c) := by
  rcases mem_decimalDigits h with rfl | rfl | rfl | rfl | rfl | rfl | rfl | rfl | rfl | rfl <;> rfl

theorem digitValue_hex {c : Char} (h : c ∈ hexDigits) :
    c.toUpper = c ∧ digitValue 16 c = some (hexDigits.idxOf c) := by
  rcases mem_hexDigits h with h | rfl | rfl | rfl | rfl | rfl | rfl
  · rcases mem_decimalDigits h with rfl | rfl | rfl | rfl | rfl | rfl | rfl | rfl | rfl | rfl <;> exact ⟨rfl, rfl⟩
  all_goals exact ⟨rfl, rfl⟩

/-- Either case of a hexadecimal digit has the value of the upper case. -/
theorem digitValue_hexAnyCase {c : Char} (h : c ∈ hexDigits ++ lowerHexDigits) :
    digitValue 16 c = some (hexDigits.idxOf c.toUpper) := by
  rcases List.mem_append.mp h with h | h
  · rw [(digitValue_hex h).1, (digitValue_hex h).2]
  · have h : c = 'a' ∨ c = 'b' ∨ c = 'c' ∨ c = 'd' ∨ c = 'e' ∨ c = 'f' := by simpa [lowerHexDigits] using h
    rcases h with rfl | rfl | rfl | rfl | rfl | rfl <;> rfl

/-- A text of digits is the number it writes, where `f` gives each digit its spelling in `ds`. -/
theorem digits_eq_foldl {ds : List Char} {f : Char → Char} {acc : Nat} {cs : List Char}
    (h : ∀ c ∈ cs, digitValue ds.length c = some (ds.idxOf (f c))) :
    digits ds.length acc cs = some ((cs.map f).foldl (fun n c => n * ds.length + ds.idxOf c) acc) := by
  induction cs generalizing acc with
  | nil => rfl
  | cons c cs ih =>
    simp only [digits, h c List.mem_cons_self, List.map_cons, List.foldl_cons]
    exact ih (fun d hd => h d (List.mem_cons_of_mem _ hd))

theorem digits_decimal {cs : List Char} (h : ∀ c ∈ cs, c ∈ decimalDigits) :
    digits 10 0 cs = some (valueIn decimalDigits cs) := by
  have := digits_eq_foldl (ds := decimalDigits) (f := id) (acc := 0) (fun c hc => digitValue_decimal (h c hc))
  rwa [List.map_id] at this

theorem digits_hex {cs : List Char} (h : ∀ c ∈ cs, c ∈ hexDigits ++ lowerHexDigits) :
    digits 16 0 cs = some (valueIn hexDigits (cs.map Char.toUpper)) :=
  digits_eq_foldl (ds := hexDigits) (f := Char.toUpper) (acc := 0) (fun c hc => digitValue_hexAnyCase (h c hc))

theorem isWord_iff {cs : List Char} :
    isWord cs = true ↔ cs ≠ [] ∧ ∀ c ∈ cs, isSpace c = false ∧ c ≠ ',' ∧ c ≠ ';' := by
  simp [isWord, and_assoc]

theorem isWord_ne_nil {cs : List Char} (h : isWord cs = true) : cs ≠ [] := (isWord_iff.mp h).1

theorem dropWhile_space_cons {c : Char} (h : isSpace c = false) (cs : List Char) :
    (c :: cs).dropWhile isSpace = c :: cs := by
  simp [h]

/-- A text whose first and last characters are no spaces is trimmed. -/
theorem trim_of_ends {cs : List Char} (hf : ∀ c ∈ cs.head?, isSpace c = false)
    (hl : ∀ c ∈ cs.getLast?, isSpace c = false) : trim cs = cs := by
  cases cs with
  | nil => rfl
  | cons c cs =>
    rw [trim, dropWhile_space_cons (hf c rfl)]
    cases hr : (c :: cs).reverse with
    | nil => simp at hr
    | cons d ds =>
      have hd : isSpace d = false := hl d (by rw [← List.head?_reverse, hr]; rfl)
      rw [dropWhile_space_cons hd, ← hr, List.reverse_reverse]

theorem trim_cons_space {c : Char} (h : isSpace c = true) (cs : List Char) : trim (c :: cs) = trim cs := by
  simp [trim, h]

theorem trim_append_space {c : Char} (h : isSpace c = true) (cs : List Char) : trim (cs ++ [c]) = trim cs := by
  rw [trim, trim, List.dropWhile_append]
  split
  · next he => simp [List.isEmpty_iff.mp he, h]
  · simp [h]

theorem trim_word {cs : List Char} (h : isWord cs = true) : trim cs = cs :=
  trim_of_ends (fun c hc => ((isWord_iff.mp h).2 c (List.mem_of_mem_head? hc)).1)
    (fun c hc => ((isWord_iff.mp h).2 c (List.mem_of_getLast? hc)).1)

/-- A comment is cut off. -/
theorem dropComment_append (text comment : List Char) : dropComment (text ++ ';' :: comment) = dropComment text := by
  induction text with
  | nil => rfl
  | cons c cs ih =>
    by_cases h : c = ';'
    · simp [dropComment, h]
    · simpa [dropComment, h] using ih

theorem dropComment_eq_self {text : List Char} (h : ∀ c ∈ text, c ≠ ';') : dropComment text = text := by
  rw [dropComment, List.takeWhile_eq_self_iff]
  simpa using h

/-- A space at the end of a text is cut off with the comment, or stays at the end. -/
theorem trim_dropComment_append_space (text : List Char) :
    trim (dropComment (text ++ [' '])) = trim (dropComment text) := by
  have h : dropComment (text ++ [' ']) = dropComment text ∨
      dropComment (text ++ [' ']) = dropComment text ++ [' '] := by
    induction text with
    | nil => exact .inr rfl
    | cons c cs ih =>
      by_cases hc : c = ';'
      · exact .inl (by simp [dropComment, hc])
      · simpa [dropComment, hc] using ih
  rcases h with h | h <;> rw [h]
  exact trim_append_space (c := ' ') rfl _

/-- A line is read the same with a space at either end. -/
theorem parseLine_space (text : List Char) :
    parseLine (' ' :: text) = parseLine text ∧ parseLine (text ++ [' ']) = parseLine text := by
  constructor
  · have : trim (dropComment (' ' :: text)) = trim (dropComment text) := trim_cons_space rfl _
    simp only [parseLine, this]
  · simp only [parseLine, trim_dropComment_append_space]

theorem splitCommas_no_comma {cs : List Char} (h : ∀ c ∈ cs, c ≠ ',') : splitCommas cs = [cs] := by
  induction cs with
  | nil => rfl
  | cons c cs ih =>
    simp [splitCommas, h c List.mem_cons_self, ih (fun d hd => h d (List.mem_cons_of_mem _ hd))]

theorem splitCommas_append {cs : List Char} (h : ∀ c ∈ cs, c ≠ ',') (rest : List Char) :
    splitCommas (cs ++ ',' :: rest) = cs :: splitCommas rest := by
  induction cs with
  | nil => simp [splitCommas]
  | cons c cs ih =>
    simp [splitCommas, h c List.mem_cons_self, ih (fun d hd => h d (List.mem_cons_of_mem _ hd))]

/-- The texts of a line's operands as 95_test_vectors writes them. -/
abbrev commaText (texts : List (List Char)) : List Char := [',', ' '].intercalate texts

theorem commaText_cons (x y : List Char) (ys : List (List Char)) :
    commaText (x :: y :: ys) = x ++ ',' :: ' ' :: commaText (y :: ys) := by
  simp [commaText, List.intercalate]

theorem commaText_singleton (x : List Char) : commaText [x] = x := by
  simp [commaText, List.intercalate]

theorem word_no_comma {cs : List Char} (h : isWord cs = true) : ∀ c ∈ cs, c ≠ ',' :=
  fun c hc => ((isWord_iff.mp h).2 c hc).2.1

/-- The pieces between the commas are the operands' texts, once trimmed. -/
theorem pieces_commaText {x : List Char} {xs : List (List Char)} (h : ∀ y ∈ x :: xs, isWord y = true) :
    (splitCommas (commaText (x :: xs))).map trim = x :: xs ∧
      (splitCommas (' ' :: commaText (x :: xs))).map trim = x :: xs := by
  induction xs generalizing x with
  | nil =>
    have hx := h x List.mem_cons_self
    rw [commaText_singleton, splitCommas_no_comma (word_no_comma hx),
      splitCommas_no_comma (cs := ' ' :: x) (by simpa using word_no_comma hx)]
    simp [trim_word hx, trim_cons_space (show isSpace ' ' = true from rfl)]
  | cons y ys ih =>
    have hx := h x List.mem_cons_self
    have hr := (ih (fun z hz => h z (List.mem_cons_of_mem _ hz))).2
    rw [commaText_cons, splitCommas_append (word_no_comma hx), ← List.cons_append,
      splitCommas_append (cs := ' ' :: x) (by simpa using word_no_comma hx)]
    simp [trim_word hx, trim_cons_space (show isSpace ' ' = true from rfl), hr]

theorem commaText_ne_nil {x : List Char} {xs : List (List Char)} (h : isWord x = true) : commaText (x :: xs) ≠ [] := by
  have := isWord_ne_nil h
  cases xs with
  | nil => rwa [commaText_singleton]
  | cons y ys => rw [commaText_cons]; simp

theorem mapM_map_trim (ps : List (List Char)) :
    ps.mapM (fun p => operand (trim p)) = (ps.map trim).mapM operand := by
  rw [List.mapM_map]
  rfl

/-- The operands of a line are those of its texts. -/
theorem operands_commaText {texts : List (List Char)} (h : ∀ x ∈ texts, isWord x = true) :
    operands (commaText texts) = texts.mapM operand := by
  cases texts with
  | nil => rfl
  | cons x xs =>
    rw [operands, if_neg (commaText_ne_nil (h x List.mem_cons_self)), mapM_map_trim, (pieces_commaText h).1]

theorem head_commaText {x : List Char} {xs : List (List Char)} (h : isWord x = true) :
    ∀ c ∈ (commaText (x :: xs)).head?, isSpace c = false := by
  intro c hc
  have hm : c ∈ x.head? := by
    cases x with
    | nil => simp [isWord] at h
    | cons d ds => cases xs <;> simpa [commaText_cons, commaText_singleton] using hc
  exact ((isWord_iff.mp h).2 c (List.mem_of_mem_head? hm)).1

theorem last_commaText {x : List Char} {xs : List (List Char)} (h : ∀ y ∈ x :: xs, isWord y = true) :
    ∀ c ∈ (commaText (x :: xs)).getLast?, isSpace c = false := by
  induction xs generalizing x with
  | nil =>
    intro c hc
    rw [commaText_singleton] at hc
    exact ((isWord_iff.mp (h x List.mem_cons_self)).2 c (List.mem_of_getLast? hc)).1
  | cons y ys ih =>
    intro c hc
    have hy : ∀ z ∈ y :: ys, isWord z = true := fun z hz => h z (List.mem_cons_of_mem _ hz)
    refine ih hy c ?_
    rw [commaText_cons, show x ++ ',' :: ' ' :: commaText (y :: ys) = (x ++ [',', ' ']) ++ commaText (y :: ys) by simp,
      List.getLast?_append] at hc
    have hne := commaText_ne_nil (xs := ys) (hy y List.mem_cons_self)
    rw [List.getLast?_eq_some_getLast hne] at hc ⊢
    simpa using hc

theorem mem_commaText {texts : List (List Char)} (h : ∀ x ∈ texts, isWord x = true) {c : Char}
    (hc : c ∈ commaText texts) : c ≠ ';' := by
  induction texts with
  | nil => simp [commaText, List.intercalate] at hc
  | cons x xs ih =>
    have hx := h x List.mem_cons_self
    have hxs : ∀ y ∈ xs, isWord y = true := fun y hy => h y (List.mem_cons_of_mem _ hy)
    cases xs with
    | nil =>
      rw [commaText_singleton] at hc
      exact ((isWord_iff.mp hx).2 c hc).2.2
    | cons y ys =>
      rw [commaText_cons] at hc
      rcases List.mem_append.mp hc with hc | hc
      · exact ((isWord_iff.mp hx).2 c hc).2.2
      · rcases List.mem_cons.mp hc with rfl | hc
        · decide
        · rcases List.mem_cons.mp hc with rfl | hc
          · decide
          · exact ih hxs hc

theorem takeWhile_word {m rest : List Char} (h : isWord m = true) :
    (m ++ ' ' :: rest).takeWhile (fun c => !isSpace c) = m := by
  rw [List.takeWhile_append_of_pos (fun c hc => by simp [((isWord_iff.mp h).2 c hc).1])]
  simp [isSpace]

theorem takeWhile_word_self {m : List Char} (h : isWord m = true) : m.takeWhile (fun c => !isSpace c) = m := by
  rw [List.takeWhile_eq_self_iff]
  intro c hc
  simp [((isWord_iff.mp h).2 c hc).1]

/-- What a line says once it is split into a mnemonic and its operands. -/
def lineOf (m : List Char) (ops : Option (List Operand)) : Option AsmLine :=
  match ops with
  | none => none
  | some ops =>
    if String.ofList m = ".construct" then
      match ops with
      | [pin, .num length, channel] => some (.construct pin length channel)
      | _ => none
    else (asmOf m ops).map .command

/-- A line in the layout of 95_test_vectors is read as its mnemonic and its operands. -/
theorem parseLine_words {m : List Char} {texts : List (List Char)} (hm : isWord m = true)
    (h : ∀ x ∈ texts, isWord x = true) :
    parseLine (m ++ ' ' :: commaText texts) = lineOf m (texts.mapM operand) := by
  have hne := isWord_ne_nil hm
  have hc : dropComment (m ++ ' ' :: commaText texts) = m ++ ' ' :: commaText texts := by
    refine dropComment_eq_self (fun c hc => ?_)
    rcases List.mem_append.mp hc with hc | hc
    · exact ((isWord_iff.mp hm).2 c hc).2.2
    · rcases List.mem_cons.mp hc with rfl | hc
      · decide
      · exact mem_commaText h hc
  have hh : ∀ c ∈ m.head?, isSpace c = false := fun c hc =>
    ((isWord_iff.mp hm).2 c (List.mem_of_mem_head? hc)).1
  cases texts with
  | nil =>
    have ht : trim (m ++ ' ' :: commaText []) = m := by
      rw [trim]
      have : (m ++ ' ' :: commaText []).dropWhile isSpace = m ++ [' '] := by
        cases m with
        | nil => exact absurd rfl hne
        | cons c cs => exact dropWhile_space_cons (hh c rfl) _
      rw [this, List.reverse_append]
      have hs := trim_word hm
      rw [trim] at hs
      cases m with
      | nil => exact absurd rfl hne
      | cons c cs => rw [dropWhile_space_cons (hh c rfl)] at hs; simpa [isSpace] using hs
    simp only [parseLine, hc, ht, takeWhile_word_self hm, if_neg hne]
    simp [trim, operands, lineOf]
  | cons x xs =>
    have hx := h x List.mem_cons_self
    have ht : trim (m ++ ' ' :: commaText (x :: xs)) = m ++ ' ' :: commaText (x :: xs) := by
      refine trim_of_ends (fun c hc => ?_) (fun c hc => ?_)
      · cases m with
        | nil => exact absurd rfl hne
        | cons d ds => exact hh c (by simpa using hc)
      · refine last_commaText h c ?_
        have hn := commaText_ne_nil (xs := xs) hx
        rw [show m ++ ' ' :: commaText (x :: xs) = (m ++ [' ']) ++ commaText (x :: xs) by simp,
          List.getLast?_append] at hc
        rw [List.getLast?_eq_some_getLast hn] at hc ⊢
        simpa using hc
    have hr : trim ((m ++ ' ' :: commaText (x :: xs)).drop m.length) = commaText (x :: xs) := by
      rw [List.drop_left, trim_cons_space rfl]
      exact trim_of_ends (head_commaText hx) (last_commaText h)
    simp only [parseLine, hc, ht, takeWhile_word hm, hr, operands_commaText h]
    rw [if_neg (by simp)]
    rfl

/-- A mnemonic alone is a line with no operand. -/
theorem parseLine_word {m : List Char} (hm : isWord m = true) : parseLine m = lineOf m (some []) := by
  rw [← (parseLine_space m).2]
  exact parseLine_words (texts := []) hm (by simp)

end Sys2Proof.Machine
end

