-- ==== Sys2Proof/Laws/Memory.lean ====
section
/-! SUPPORT. The two memories: a read after a write, every other entry unchanged, and the canonical form kept by every
memory operation; the length of a frame and its hand-off. -/

namespace Sys2Proof.Machine

variable {α : Type}

theorem cellGet_cellSet_self (a : Nat) (v : α) (m : Cells α) : cellGet a (cellSet a v m) = some v := by
  induction m with
  | nil => simp [cellSet, cellGet]
  | cons e m ih =>
    obtain ⟨b, u⟩ := e
    simp only [cellSet]
    split
    · simp [cellGet]
    · split
      · simp [cellGet]
      · simp_all [cellGet]

theorem cellGet_cellSet_other {a b : Nat} (h : b ≠ a) (v : α) (m : Cells α) :
    cellGet b (cellSet a v m) = cellGet b m := by
  induction m with
  | nil => simp [cellSet, cellGet, h]
  | cons e m ih =>
    obtain ⟨c, u⟩ := e
    simp only [cellSet]
    split
    · simp [cellGet, h]
    · split
      · subst_vars; simp [cellGet, h]
      · simp [cellGet, ih]

theorem cellGet_filter (p : Nat → Bool) (b : Nat) (m : Cells α) :
    cellGet b (m.filter (fun e => p e.1)) = if p b then cellGet b m else none := by
  induction m with
  | nil => simp [cellGet]
  | cons e m ih =>
    obtain ⟨c, u⟩ := e
    by_cases hb : b = c
    · subst hb
      by_cases hp : p b <;> simp_all [cellGet]
    · by_cases hp : p c <;> simp [cellGet, hb, hp, ih]

theorem cellGet_cellErase_self (a : Nat) (m : Cells α) : cellGet a (cellErase a m) = none := by
  simpa [cellErase] using cellGet_filter (fun i => decide (i ≠ a)) a m

theorem cellGet_cellErase_other {a b : Nat} (h : b ≠ a) (m : Cells α) :
    cellGet b (cellErase a m) = cellGet b m := by
  simpa [cellErase, h] using cellGet_filter (fun i => decide (i ≠ a)) b m

theorem cellsRise_mono {lo hi : Nat} (h : hi ≤ lo) {m : Cells α} (hm : cellsRise lo m = true) :
    cellsRise hi m = true := by
  cases m with
  | nil => rfl
  | cons e m =>
    simp only [cellsRise, Bool.and_eq_true, decide_eq_true_eq] at hm ⊢
    exact ⟨by omega, hm.2⟩

theorem cellsRise_cellSet {lo a : Nat} (h : lo ≤ a) (v : α) {m : Cells α} (hm : cellsRise lo m = true) :
    cellsRise lo (cellSet a v m) = true := by
  induction m generalizing lo with
  | nil => simp [cellSet, cellsRise, h]
  | cons e m ih =>
    obtain ⟨b, u⟩ := e
    simp only [cellsRise, Bool.and_eq_true, decide_eq_true_eq] at hm
    simp only [cellSet]
    split
    · simp only [cellsRise, Bool.and_eq_true, decide_eq_true_eq]
      exact ⟨h, by omega, hm.2⟩
    · split
      · subst_vars; simp [cellsRise, h, hm.2]
      · simp only [cellsRise, Bool.and_eq_true, decide_eq_true_eq]
        exact ⟨hm.1, ih (by omega) hm.2⟩

theorem cellsRise_filter (p : Nat × α → Bool) {lo : Nat} {m : Cells α} (hm : cellsRise lo m = true) :
    cellsRise lo (m.filter p) = true := by
  induction m generalizing lo with
  | nil => rfl
  | cons e m ih =>
    simp only [cellsRise, Bool.and_eq_true, decide_eq_true_eq] at hm
    by_cases hp : p e
    · simp [hp, cellsRise, hm.1, ih hm.2]
    · simpa [hp] using ih (cellsRise_mono (by omega) hm.2)

theorem mem_cellSet {a : Nat} {v : α} {m : Cells α} {e : Nat × α} (h : e ∈ cellSet a v m) :
    e = (a, v) ∨ e ∈ m := by
  induction m with
  | nil => simpa [cellSet] using h
  | cons d m ih =>
    obtain ⟨b, u⟩ := d
    simp only [cellSet] at h
    split at h
    · simpa using h
    · split at h
      · rcases List.mem_cons.mp h with h | h
        · exact .inl h
        · exact .inr (List.mem_cons_of_mem _ h)
      · rcases List.mem_cons.mp h with h | h
        · exact .inr (h ▸ List.mem_cons_self)
        · exact (ih h).imp id (List.mem_cons_of_mem _)

/-! PIX -/

theorem pixRead_pixWrite_self (i : Nat) (c : Color) (m : Cells Color) : pixRead i (pixWrite i c m) = c := by
  unfold pixRead pixWrite
  split
  · simp_all [cellGet_cellErase_self]
  · simp [cellGet_cellSet_self]

theorem pixRead_pixWrite_other {i j : Nat} (h : j ≠ i) (c : Color) (m : Cells Color) :
    pixRead j (pixWrite i c m) = pixRead j m := by
  unfold pixRead pixWrite
  split
  · rw [cellGet_cellErase_other h]
  · rw [cellGet_cellSet_other h]

theorem pixRead_pixClear (n i : Nat) (m : Cells Color) :
    pixRead i (pixClear n m) = if i < n then black else pixRead i m := by
  unfold pixRead pixClear
  rw [cellGet_filter (fun i => decide (n ≤ i))]
  by_cases h : i < n
  · simp [h, Nat.not_le.mpr h]
  · simp [h, Nat.le_of_not_lt h]

theorem pixWf_iff {n : Nat} {m : Cells Color} :
    pixWf n m = true ↔ cellsRise 0 m = true ∧ ∀ e ∈ m, e.1 < n ∧ e.2 ≠ black := by
  simp [pixWf]

theorem pixWf_nil (n : Nat) : pixWf n [] = true := rfl

theorem pixWf_pixWrite {n i : Nat} (hi : i < n) (c : Color) {m : Cells Color} (hm : pixWf n m = true) :
    pixWf n (pixWrite i c m) = true := by
  rw [pixWf_iff] at hm ⊢
  unfold pixWrite
  split
  · exact ⟨cellsRise_filter _ hm.1, fun e he => hm.2 e (List.mem_of_mem_filter he)⟩
  · refine ⟨cellsRise_cellSet (Nat.zero_le i) c hm.1, fun e he => ?_⟩
    rcases mem_cellSet he with rfl | he
    · exact ⟨hi, by assumption⟩
    · exact hm.2 e he

theorem pixClear_eq_nil {n : Nat} {m : Cells Color} (hm : pixWf n m = true) : pixClear n m = [] := by
  rw [pixWf_iff] at hm
  rw [pixClear, List.filter_eq_nil_iff]
  intro e he
  have := (hm.2 e he).1
  simp; omega

theorem pixWf_pixClear {n k : Nat} {m : Cells Color} (hm : pixWf n m = true) : pixWf n (pixClear k m) = true := by
  rw [pixWf_iff] at hm ⊢
  exact ⟨cellsRise_filter _ hm.1, fun e he => hm.2 e (List.mem_of_mem_filter he)⟩

theorem cellsRise_range' (f : Nat → Option α) (lo n k : Nat) (h : k ≤ lo) :
    cellsRise k ((List.range' lo n).filterMap (fun i => (f i).map (fun v => (i, v)))) = true := by
  induction n generalizing lo k with
  | zero => rfl
  | succ n ih =>
    rw [List.range'_succ, List.filterMap_cons]
    cases hf : f lo with
    | none => simpa [hf] using ih (lo + 1) k (by omega)
    | some v => simp [cellsRise, h, ih (lo + 1) (lo + 1) (by omega)]

theorem pixWf_pixFill (n : Nat) (f : Nat → Color) : pixWf n (pixFill n f) = true := by
  rw [pixWf_iff]
  constructor
  · have := cellsRise_range' (fun i => if f i = black then none else some (f i)) 0 n 0 (Nat.le_refl 0)
    rw [← List.range_eq_range'] at this
    refine Eq.trans (congrArg (cellsRise 0) (List.filterMap_congr ?_)) this
    intro i _
    split <;> simp_all
  · intro e he
    simp only [pixFill, List.mem_filterMap, List.mem_range] at he
    obtain ⟨i, hi, he⟩ := he
    split at he
    · exact absurd he (by simp)
    · cases he; exact ⟨hi, by assumption⟩

/-! WAVE -/

theorem waveWf_iff {n : Nat} {m : Cells Item} :
    waveWf n m = true ↔ cellsRise 0 m = true ∧ ∀ e ∈ m, e.1 < n := by
  simp [waveWf]

theorem cellsRise_cellsFrom {k j : Nat} (h : k ≤ j) (vs : List α) : cellsRise k (cellsFrom j vs) = true := by
  induction vs generalizing k j with
  | nil => rfl
  | cons v vs ih => simp [cellsFrom, cellsRise, h, ih]

theorem mem_cellsFrom {j : Nat} {vs : List α} {e : Nat × α} (h : e ∈ cellsFrom j vs) :
    j ≤ e.1 ∧ e.1 < j + vs.length ∧ e.2 ∈ vs := by
  induction vs generalizing j with
  | nil => simp [cellsFrom] at h
  | cons v vs ih =>
    rcases List.mem_cons.mp h with rfl | h
    · simp
    · have := ih h
      simp only [List.length_cons, List.mem_cons]
      exact ⟨by omega, by omega, .inr this.2.2⟩

theorem waveWf_cellsFrom {n : Nat} {items : List Item} (h : items.length ≤ n) :
    waveWf n (cellsFrom 0 items) = true := by
  rw [waveWf_iff]
  refine ⟨cellsRise_cellsFrom (Nat.le_refl 0) items, fun e he => ?_⟩
  have := (mem_cellsFrom he).2.1
  omega

theorem cellGet_cellsFrom (j k : Nat) (vs : List α) : cellGet (j + k) (cellsFrom j vs) = vs[k]? := by
  induction vs generalizing j k with
  | nil => simp [cellsFrom, cellGet]
  | cons v vs ih =>
    cases k with
    | zero => simp [cellsFrom, cellGet]
    | succ k =>
      have := ih (j + 1) k
      rw [show j + 1 + k = j + (k + 1) by omega] at this
      simp [cellsFrom, cellGet, this]

theorem waveRead_cellsFrom (j : Nat) (items : List Item) :
    waveRead j items.length (cellsFrom j items) = some items := by
  induction items generalizing j with
  | nil => rfl
  | cons it items ih => simp [cellsFrom, waveRead, ih]

/-- The bytes MKWAVE takes from the packed colour are the channels (42_encoder R122). -/
theorem packedByte_pack (ch : Channel) (col : Color) : packedByte ch (pack col) = chanGet ch col := by
  cases ch <;> ext i hi <;> simp [packedByte, chanGet, pack, BitVec.getElem_extractLsb'] <;> grind

/-- Each bit of a packed colour (30_encoding R61). -/
theorem pack_getLsbD (c : Color) (i : Nat) :
    (pack c).getLsbD i =
      if i < 8 then c.white.getLsbD i
      else if i < 16 then c.blue.getLsbD (i - 8)
      else if i < 24 then c.green.getLsbD (i - 16)
      else c.red.getLsbD (i - 24) := by
  simp only [pack, BitVec.getLsbD_append]
  grind

@[simp] theorem length_encodeByte (c : InstanceConfig) (v : Byte) : (encodeByte c v).length = 8 := rfl

@[simp] theorem length_encodePixel (c : InstanceConfig) (col : Color) : (encodePixel c col).length = 24 := rfl

@[simp] theorem length_encodeFrame (c : InstanceConfig) (pix : Cells Color) :
    (encodeFrame c pix).length = nitems c := by
  simp [encodeFrame, List.length_flatMap, nitems]

end Sys2Proof.Machine
end

