-- ==== Sys2Proof/Laws/State.lean ====
section
/-! SUPPORT. For each operation that updates the state, what it leaves in each field: true by rfl, so that no proof
unfolds a record update. -/

namespace Sys2Proof.Machine

/-! `setReg` -/

@[simp] theorem setReg_cr (r : CReg) (c : Color) (s : State) : (setReg r c s).cr = regsSet r c s.cr := rfl
@[simp] theorem setReg_pix (r : CReg) (c : Color) (s : State) : (setReg r c s).pix = s.pix := rfl
@[simp] theorem setReg_wave (r : CReg) (c : Color) (s : State) : (setReg r c s).wave = s.wave := rfl
@[simp] theorem setReg_cfg (r : CReg) (c : Color) (s : State) : (setReg r c s).cfg = s.cfg := rfl
@[simp] theorem setReg_ph (r : CReg) (c : Color) (s : State) : (setReg r c s).ph = s.ph := rfl
@[simp] theorem setReg_status (r : CReg) (c : Color) (s : State) : (setReg r c s).status = s.status := rfl
@[simp] theorem setReg_live (r : CReg) (c : Color) (s : State) : (setReg r c s).live = s.live := rfl
@[simp] theorem setReg_busy (r : CReg) (c : Color) (s : State) : (setReg r c s).busy = s.busy := rfl
@[simp] theorem setReg_inflight (r : CReg) (c : Color) (s : State) : (setReg r c s).inflight = s.inflight := rfl
@[simp] theorem setReg_line (r : CReg) (c : Color) (s : State) : (setReg r c s).line = s.line := rfl
@[simp] theorem setReg_emitPos (r : CReg) (c : Color) (s : State) : (setReg r c s).emitPos = s.emitPos := rfl
@[simp] theorem setReg_draw (r : CReg) (c : Color) (s : State) : (setReg r c s).draw = s.draw := rfl
@[simp] theorem setReg_env (r : CReg) (c : Color) (s : State) : (setReg r c s).env = s.env := rfl
@[simp] theorem setReg_obs (r : CReg) (c : Color) (s : State) : (setReg r c s).obs = s.obs := rfl

/-! `putPixel` -/

@[simp] theorem putPixel_cr (i : Nat) (c : Color) (s : State) : (putPixel i c s).cr = s.cr := rfl
@[simp] theorem putPixel_pix (i : Nat) (c : Color) (s : State) : (putPixel i c s).pix = pixWrite i c s.pix := rfl
@[simp] theorem putPixel_wave (i : Nat) (c : Color) (s : State) : (putPixel i c s).wave = s.wave := rfl
@[simp] theorem putPixel_cfg (i : Nat) (c : Color) (s : State) : (putPixel i c s).cfg = s.cfg := rfl
@[simp] theorem putPixel_ph (i : Nat) (c : Color) (s : State) : (putPixel i c s).ph = s.ph := rfl
@[simp] theorem putPixel_status (i : Nat) (c : Color) (s : State) : (putPixel i c s).status = s.status := rfl
@[simp] theorem putPixel_live (i : Nat) (c : Color) (s : State) : (putPixel i c s).live = s.live := rfl
@[simp] theorem putPixel_busy (i : Nat) (c : Color) (s : State) : (putPixel i c s).busy = s.busy := rfl
@[simp] theorem putPixel_inflight (i : Nat) (c : Color) (s : State) : (putPixel i c s).inflight = s.inflight := rfl
@[simp] theorem putPixel_line (i : Nat) (c : Color) (s : State) : (putPixel i c s).line = s.line := rfl
@[simp] theorem putPixel_emitPos (i : Nat) (c : Color) (s : State) : (putPixel i c s).emitPos = s.emitPos := rfl
@[simp] theorem putPixel_draw (i : Nat) (c : Color) (s : State) : (putPixel i c s).draw = s.draw := rfl
@[simp] theorem putPixel_env (i : Nat) (c : Color) (s : State) : (putPixel i c s).env = s.env := rfl
@[simp] theorem putPixel_obs (i : Nat) (c : Color) (s : State) : (putPixel i c s).obs = s.obs := rfl

/-! `setPhase` -/

@[simp] theorem setPhase_cr (p : Ph) (s : State) : (setPhase p s).cr = s.cr := rfl
@[simp] theorem setPhase_pix (p : Ph) (s : State) : (setPhase p s).pix = s.pix := rfl
@[simp] theorem setPhase_wave (p : Ph) (s : State) : (setPhase p s).wave = s.wave := rfl
@[simp] theorem setPhase_cfg (p : Ph) (s : State) : (setPhase p s).cfg = s.cfg := rfl
@[simp] theorem setPhase_ph (p : Ph) (s : State) : (setPhase p s).ph = p := rfl
@[simp] theorem setPhase_status (p : Ph) (s : State) : (setPhase p s).status = s.status := rfl
@[simp] theorem setPhase_live (p : Ph) (s : State) : (setPhase p s).live = s.live := rfl
@[simp] theorem setPhase_busy (p : Ph) (s : State) : (setPhase p s).busy = s.busy := rfl
@[simp] theorem setPhase_inflight (p : Ph) (s : State) : (setPhase p s).inflight = s.inflight := rfl
@[simp] theorem setPhase_line (p : Ph) (s : State) : (setPhase p s).line = s.line := rfl
@[simp] theorem setPhase_emitPos (p : Ph) (s : State) : (setPhase p s).emitPos = s.emitPos := rfl
@[simp] theorem setPhase_draw (p : Ph) (s : State) : (setPhase p s).draw = s.draw := rfl
@[simp] theorem setPhase_env (p : Ph) (s : State) : (setPhase p s).env = s.env := rfl
@[simp] theorem setPhase_obs (p : Ph) (s : State) : (setPhase p s).obs = s.obs := rfl

/-! `respond` -/

@[simp] theorem respond_cr (v : Word) (s : State) : (respond v s).cr = s.cr := rfl
@[simp] theorem respond_pix (v : Word) (s : State) : (respond v s).pix = s.pix := rfl
@[simp] theorem respond_wave (v : Word) (s : State) : (respond v s).wave = s.wave := rfl
@[simp] theorem respond_cfg (v : Word) (s : State) : (respond v s).cfg = s.cfg := rfl
@[simp] theorem respond_ph (v : Word) (s : State) : (respond v s).ph = s.ph := rfl
@[simp] theorem respond_status (v : Word) (s : State) : (respond v s).status = s.status := rfl
@[simp] theorem respond_live (v : Word) (s : State) : (respond v s).live = s.live := rfl
@[simp] theorem respond_busy (v : Word) (s : State) : (respond v s).busy = s.busy := rfl
@[simp] theorem respond_inflight (v : Word) (s : State) : (respond v s).inflight = s.inflight := rfl
@[simp] theorem respond_line (v : Word) (s : State) : (respond v s).line = s.line := rfl
@[simp] theorem respond_emitPos (v : Word) (s : State) : (respond v s).emitPos = s.emitPos := rfl
@[simp] theorem respond_draw (v : Word) (s : State) : (respond v s).draw = s.draw := rfl
@[simp] theorem respond_env (v : Word) (s : State) : (respond v s).env = s.env := rfl
@[simp] theorem respond_obs (v : Word) (s : State) : (respond v s).obs = { s.obs with responses := s.obs.responses ++ [v] } := rfl

/-! `emitDiag` -/

@[simp] theorem emitDiag_cr (e : DiagEvent) (s : State) : (emitDiag e s).cr = s.cr := rfl
@[simp] theorem emitDiag_pix (e : DiagEvent) (s : State) : (emitDiag e s).pix = s.pix := rfl
@[simp] theorem emitDiag_wave (e : DiagEvent) (s : State) : (emitDiag e s).wave = s.wave := rfl
@[simp] theorem emitDiag_cfg (e : DiagEvent) (s : State) : (emitDiag e s).cfg = s.cfg := rfl
@[simp] theorem emitDiag_ph (e : DiagEvent) (s : State) : (emitDiag e s).ph = s.ph := rfl
@[simp] theorem emitDiag_status (e : DiagEvent) (s : State) : (emitDiag e s).status = s.status := rfl
@[simp] theorem emitDiag_live (e : DiagEvent) (s : State) : (emitDiag e s).live = s.live := rfl
@[simp] theorem emitDiag_busy (e : DiagEvent) (s : State) : (emitDiag e s).busy = s.busy := rfl
@[simp] theorem emitDiag_inflight (e : DiagEvent) (s : State) : (emitDiag e s).inflight = s.inflight := rfl
@[simp] theorem emitDiag_line (e : DiagEvent) (s : State) : (emitDiag e s).line = s.line := rfl
@[simp] theorem emitDiag_emitPos (e : DiagEvent) (s : State) : (emitDiag e s).emitPos = s.emitPos := rfl
@[simp] theorem emitDiag_draw (e : DiagEvent) (s : State) : (emitDiag e s).draw = s.draw := rfl
@[simp] theorem emitDiag_env (e : DiagEvent) (s : State) : (emitDiag e s).env = s.env := rfl
@[simp] theorem emitDiag_obs (e : DiagEvent) (s : State) : (emitDiag e s).obs = { s.obs with diag := s.obs.diag ++ [e] } := rfl

/-! `recordCall` -/

@[simp] theorem recordCall_cr (c : PeriphCall) (s : State) : (recordCall c s).cr = s.cr := rfl
@[simp] theorem recordCall_pix (c : PeriphCall) (s : State) : (recordCall c s).pix = s.pix := rfl
@[simp] theorem recordCall_wave (c : PeriphCall) (s : State) : (recordCall c s).wave = s.wave := rfl
@[simp] theorem recordCall_cfg (c : PeriphCall) (s : State) : (recordCall c s).cfg = s.cfg := rfl
@[simp] theorem recordCall_ph (c : PeriphCall) (s : State) : (recordCall c s).ph = s.ph := rfl
@[simp] theorem recordCall_status (c : PeriphCall) (s : State) : (recordCall c s).status = s.status := rfl
@[simp] theorem recordCall_live (c : PeriphCall) (s : State) : (recordCall c s).live = s.live := rfl
@[simp] theorem recordCall_busy (c : PeriphCall) (s : State) : (recordCall c s).busy = s.busy := rfl
@[simp] theorem recordCall_inflight (c : PeriphCall) (s : State) : (recordCall c s).inflight = s.inflight := rfl
@[simp] theorem recordCall_line (c : PeriphCall) (s : State) : (recordCall c s).line = s.line := rfl
@[simp] theorem recordCall_emitPos (c : PeriphCall) (s : State) : (recordCall c s).emitPos = s.emitPos := rfl
@[simp] theorem recordCall_draw (c : PeriphCall) (s : State) : (recordCall c s).draw = s.draw := rfl
@[simp] theorem recordCall_env (c : PeriphCall) (s : State) : (recordCall c s).env = s.env := rfl
@[simp] theorem recordCall_obs (c : PeriphCall) (s : State) : (recordCall c s).obs = { s.obs with calls := s.obs.calls ++ [c] } := rfl

/-! `mkwave` -/

@[simp] theorem mkwave_cr (s : State) : (mkwave s).cr = s.cr := rfl
@[simp] theorem mkwave_pix (s : State) : (mkwave s).pix = s.pix := rfl
@[simp] theorem mkwave_wave (s : State) : (mkwave s).wave = cellsFrom 0 (encodeFrame s.cfg s.pix) := rfl
@[simp] theorem mkwave_cfg (s : State) : (mkwave s).cfg = s.cfg := rfl
@[simp] theorem mkwave_ph (s : State) : (mkwave s).ph = s.ph := rfl
@[simp] theorem mkwave_status (s : State) : (mkwave s).status = s.status := rfl
@[simp] theorem mkwave_live (s : State) : (mkwave s).live = s.live := rfl
@[simp] theorem mkwave_busy (s : State) : (mkwave s).busy = s.busy := rfl
@[simp] theorem mkwave_inflight (s : State) : (mkwave s).inflight = s.inflight := rfl
@[simp] theorem mkwave_line (s : State) : (mkwave s).line = s.line := rfl
@[simp] theorem mkwave_emitPos (s : State) : (mkwave s).emitPos = s.emitPos := rfl
@[simp] theorem mkwave_draw (s : State) : (mkwave s).draw = s.draw := rfl
@[simp] theorem mkwave_env (s : State) : (mkwave s).env = s.env := rfl
@[simp] theorem mkwave_obs (s : State) : (mkwave s).obs = s.obs := rfl

/-! `callWaitIdle` -/

@[simp] theorem callWaitIdle_cr (s : State) : (callWaitIdle s).cr = s.cr := rfl
@[simp] theorem callWaitIdle_pix (s : State) : (callWaitIdle s).pix = s.pix := rfl
@[simp] theorem callWaitIdle_wave (s : State) : (callWaitIdle s).wave = s.wave := rfl
@[simp] theorem callWaitIdle_cfg (s : State) : (callWaitIdle s).cfg = s.cfg := rfl
@[simp] theorem callWaitIdle_ph (s : State) : (callWaitIdle s).ph = s.ph := rfl
@[simp] theorem callWaitIdle_status (s : State) : (callWaitIdle s).status = s.status := rfl
@[simp] theorem callWaitIdle_live (s : State) : (callWaitIdle s).live = s.live := rfl
@[simp] theorem callWaitIdle_busy (s : State) : (callWaitIdle s).busy = s.busy := rfl
@[simp] theorem callWaitIdle_inflight (s : State) : (callWaitIdle s).inflight = s.inflight := rfl
@[simp] theorem callWaitIdle_line (s : State) : (callWaitIdle s).line = s.line := rfl
@[simp] theorem callWaitIdle_emitPos (s : State) : (callWaitIdle s).emitPos = s.emitPos := rfl
@[simp] theorem callWaitIdle_draw (s : State) : (callWaitIdle s).draw = s.draw := rfl
@[simp] theorem callWaitIdle_env (s : State) : (callWaitIdle s).env = s.env := rfl
@[simp] theorem callWaitIdle_obs (s : State) : (callWaitIdle s).obs = { s.obs with calls := s.obs.calls ++ [.waitIdle s.cfg.channel s.cfg.waitTimeout] } := rfl

/-! `consumeWaitAnswer` -/

@[simp] theorem consumeWaitAnswer_cr (s : State) : (consumeWaitAnswer s).cr = s.cr := rfl
@[simp] theorem consumeWaitAnswer_pix (s : State) : (consumeWaitAnswer s).pix = s.pix := rfl
@[simp] theorem consumeWaitAnswer_wave (s : State) : (consumeWaitAnswer s).wave = s.wave := rfl
@[simp] theorem consumeWaitAnswer_cfg (s : State) : (consumeWaitAnswer s).cfg = s.cfg := rfl
@[simp] theorem consumeWaitAnswer_ph (s : State) : (consumeWaitAnswer s).ph = s.ph := rfl
@[simp] theorem consumeWaitAnswer_status (s : State) : (consumeWaitAnswer s).status = s.status := rfl
@[simp] theorem consumeWaitAnswer_live (s : State) : (consumeWaitAnswer s).live = s.live := rfl
@[simp] theorem consumeWaitAnswer_busy (s : State) : (consumeWaitAnswer s).busy = s.busy := rfl
@[simp] theorem consumeWaitAnswer_inflight (s : State) : (consumeWaitAnswer s).inflight = s.inflight := rfl
@[simp] theorem consumeWaitAnswer_line (s : State) : (consumeWaitAnswer s).line = s.line := rfl
@[simp] theorem consumeWaitAnswer_emitPos (s : State) : (consumeWaitAnswer s).emitPos = s.emitPos := rfl
@[simp] theorem consumeWaitAnswer_draw (s : State) : (consumeWaitAnswer s).draw = s.draw := rfl
@[simp] theorem consumeWaitAnswer_env (s : State) : (consumeWaitAnswer s).env = { s.env with waitAnswers := s.env.waitAnswers.tail } := rfl
@[simp] theorem consumeWaitAnswer_obs (s : State) : (consumeWaitAnswer s).obs = s.obs := rfl

/-! `callTransmit` -/

@[simp] theorem callTransmit_cr (s : State) : (callTransmit s).cr = s.cr := rfl
@[simp] theorem callTransmit_pix (s : State) : (callTransmit s).pix = s.pix := rfl
@[simp] theorem callTransmit_wave (s : State) : (callTransmit s).wave = s.wave := rfl
@[simp] theorem callTransmit_cfg (s : State) : (callTransmit s).cfg = s.cfg := rfl
@[simp] theorem callTransmit_ph (s : State) : (callTransmit s).ph = s.ph := rfl
@[simp] theorem callTransmit_status (s : State) : (callTransmit s).status = s.status := rfl
@[simp] theorem callTransmit_live (s : State) : (callTransmit s).live = s.live := rfl
@[simp] theorem callTransmit_busy (s : State) : (callTransmit s).busy = s.busy := rfl
@[simp] theorem callTransmit_inflight (s : State) : (callTransmit s).inflight = s.inflight := rfl
@[simp] theorem callTransmit_line (s : State) : (callTransmit s).line = s.line := rfl
@[simp] theorem callTransmit_emitPos (s : State) : (callTransmit s).emitPos = s.emitPos := rfl
@[simp] theorem callTransmit_draw (s : State) : (callTransmit s).draw = s.draw := rfl
@[simp] theorem callTransmit_env (s : State) : (callTransmit s).env = { s.env with txAnswers := s.env.txAnswers.tail } := rfl
@[simp] theorem callTransmit_obs (s : State) : (callTransmit s).obs = { s.obs with calls := s.obs.calls ++ [.transmit s.cfg.channel (nitems s.cfg) false] } := rfl

/-! `handOff` -/

@[simp] theorem handOff_cr (items : List Item) (s : State) : (handOff items s).cr = s.cr := rfl
@[simp] theorem handOff_pix (items : List Item) (s : State) : (handOff items s).pix = s.pix := rfl
@[simp] theorem handOff_wave (items : List Item) (s : State) : (handOff items s).wave = s.wave := rfl
@[simp] theorem handOff_cfg (items : List Item) (s : State) : (handOff items s).cfg = s.cfg := rfl
@[simp] theorem handOff_ph (items : List Item) (s : State) : (handOff items s).ph = s.ph := rfl
@[simp] theorem handOff_status (items : List Item) (s : State) : (handOff items s).status = s.status := rfl
@[simp] theorem handOff_live (items : List Item) (s : State) : (handOff items s).live = s.live := rfl
@[simp] theorem handOff_busy (items : List Item) (s : State) : (handOff items s).busy = true := rfl
@[simp] theorem handOff_inflight (items : List Item) (s : State) : (handOff items s).inflight = items := rfl
@[simp] theorem handOff_line (items : List Item) (s : State) : (handOff items s).line = s.line := rfl
@[simp] theorem handOff_emitPos (items : List Item) (s : State) : (handOff items s).emitPos = 0 := rfl
@[simp] theorem handOff_draw (items : List Item) (s : State) : (handOff items s).draw = s.draw := rfl
@[simp] theorem handOff_env (items : List Item) (s : State) : (handOff items s).env = s.env := rfl
@[simp] theorem handOff_obs (items : List Item) (s : State) : (handOff items s).obs = { s.obs with frames := s.obs.frames ++ [items] } := rfl

/-! `drivePhase` -/

@[simp] theorem drivePhase_cr (p : Phase) (s : State) : (drivePhase p s).cr = s.cr := rfl
@[simp] theorem drivePhase_pix (p : Phase) (s : State) : (drivePhase p s).pix = s.pix := rfl
@[simp] theorem drivePhase_wave (p : Phase) (s : State) : (drivePhase p s).wave = s.wave := rfl
@[simp] theorem drivePhase_cfg (p : Phase) (s : State) : (drivePhase p s).cfg = s.cfg := rfl
@[simp] theorem drivePhase_ph (p : Phase) (s : State) : (drivePhase p s).ph = s.ph := rfl
@[simp] theorem drivePhase_status (p : Phase) (s : State) : (drivePhase p s).status = s.status := rfl
@[simp] theorem drivePhase_live (p : Phase) (s : State) : (drivePhase p s).live = s.live := rfl
@[simp] theorem drivePhase_busy (p : Phase) (s : State) : (drivePhase p s).busy = s.busy := rfl
@[simp] theorem drivePhase_inflight (p : Phase) (s : State) : (drivePhase p s).inflight = s.inflight := rfl
@[simp] theorem drivePhase_line (p : Phase) (s : State) : (drivePhase p s).line = p.level := rfl
@[simp] theorem drivePhase_emitPos (p : Phase) (s : State) : (drivePhase p s).emitPos = s.emitPos + 1 := rfl
@[simp] theorem drivePhase_draw (p : Phase) (s : State) : (drivePhase p s).draw = s.draw := rfl
@[simp] theorem drivePhase_env (p : Phase) (s : State) : (drivePhase p s).env = s.env := rfl
@[simp] theorem drivePhase_obs (p : Phase) (s : State) : (drivePhase p s).obs = { s.obs with phases := s.obs.phases ++ [p] } := rfl

/-! `complete` -/

@[simp] theorem complete_cr (s : State) : (complete s).cr = s.cr := rfl
@[simp] theorem complete_pix (s : State) : (complete s).pix = s.pix := rfl
@[simp] theorem complete_wave (s : State) : (complete s).wave = s.wave := rfl
@[simp] theorem complete_cfg (s : State) : (complete s).cfg = s.cfg := rfl
@[simp] theorem complete_ph (s : State) : (complete s).ph = phAfterCompletion s.ph := rfl
@[simp] theorem complete_status (s : State) : (complete s).status = s.status := rfl
@[simp] theorem complete_live (s : State) : (complete s).live = s.live := rfl
@[simp] theorem complete_busy (s : State) : (complete s).busy = false := rfl
@[simp] theorem complete_inflight (s : State) : (complete s).inflight = [] := rfl
@[simp] theorem complete_line (s : State) : (complete s).line = 0 := rfl
@[simp] theorem complete_emitPos (s : State) : (complete s).emitPos = 0 := rfl
@[simp] theorem complete_draw (s : State) : (complete s).draw = s.draw := rfl
@[simp] theorem complete_env (s : State) : (complete s).env = s.env := rfl
@[simp] theorem complete_obs (s : State) : (complete s).obs = s.obs := rfl

/-! `loseContents` -/

@[simp] theorem loseContents_cr (s : State) : (loseContents s).cr = freeRegs s.draw := rfl
@[simp] theorem loseContents_pix (s : State) : (loseContents s).pix = pixFill s.cfg.length (Config.freePixel s.draw) := rfl
@[simp] theorem loseContents_wave (s : State) : (loseContents s).wave = [] := rfl
@[simp] theorem loseContents_cfg (s : State) : (loseContents s).cfg = s.cfg := rfl
@[simp] theorem loseContents_ph (s : State) : (loseContents s).ph = s.ph := rfl
@[simp] theorem loseContents_status (s : State) : (loseContents s).status = s.status := rfl
@[simp] theorem loseContents_live (s : State) : (loseContents s).live = s.live := rfl
@[simp] theorem loseContents_busy (s : State) : (loseContents s).busy = s.busy := rfl
@[simp] theorem loseContents_inflight (s : State) : (loseContents s).inflight = s.inflight := rfl
@[simp] theorem loseContents_line (s : State) : (loseContents s).line = s.line := rfl
@[simp] theorem loseContents_emitPos (s : State) : (loseContents s).emitPos = s.emitPos := rfl
@[simp] theorem loseContents_draw (s : State) : (loseContents s).draw = s.draw + 1 := rfl
@[simp] theorem loseContents_env (s : State) : (loseContents s).env = s.env := rfl
@[simp] theorem loseContents_obs (s : State) : (loseContents s).obs = s.obs := rfl

/-! `losePeripheral` -/

@[simp] theorem losePeripheral_cr (s : State) : (losePeripheral s).cr = s.cr := rfl
@[simp] theorem losePeripheral_pix (s : State) : (losePeripheral s).pix = s.pix := rfl
@[simp] theorem losePeripheral_wave (s : State) : (losePeripheral s).wave = s.wave := rfl
@[simp] theorem losePeripheral_cfg (s : State) : (losePeripheral s).cfg = s.cfg := rfl
@[simp] theorem losePeripheral_ph (s : State) : (losePeripheral s).ph = s.ph := rfl
@[simp] theorem losePeripheral_status (s : State) : (losePeripheral s).status = s.status := rfl
@[simp] theorem losePeripheral_live (s : State) : (losePeripheral s).live = s.live := rfl
@[simp] theorem losePeripheral_busy (s : State) : (losePeripheral s).busy = Config.freeBusy s.draw := rfl
@[simp] theorem losePeripheral_inflight (s : State) : (losePeripheral s).inflight = Config.freeInflight s.draw := rfl
@[simp] theorem losePeripheral_line (s : State) : (losePeripheral s).line = Config.freeLine s.draw := rfl
@[simp] theorem losePeripheral_emitPos (s : State) : (losePeripheral s).emitPos = 0 := rfl
@[simp] theorem losePeripheral_draw (s : State) : (losePeripheral s).draw = s.draw + 1 := rfl
@[simp] theorem losePeripheral_env (s : State) : (losePeripheral s).env = s.env := rfl
@[simp] theorem losePeripheral_obs (s : State) : (losePeripheral s).obs = s.obs := rfl

/-! `idlePeripheral` -/

@[simp] theorem idlePeripheral_cr (s : State) : (idlePeripheral s).cr = s.cr := rfl
@[simp] theorem idlePeripheral_pix (s : State) : (idlePeripheral s).pix = s.pix := rfl
@[simp] theorem idlePeripheral_wave (s : State) : (idlePeripheral s).wave = s.wave := rfl
@[simp] theorem idlePeripheral_cfg (s : State) : (idlePeripheral s).cfg = s.cfg := rfl
@[simp] theorem idlePeripheral_ph (s : State) : (idlePeripheral s).ph = s.ph := rfl
@[simp] theorem idlePeripheral_status (s : State) : (idlePeripheral s).status = s.status := rfl
@[simp] theorem idlePeripheral_live (s : State) : (idlePeripheral s).live = s.live := rfl
@[simp] theorem idlePeripheral_busy (s : State) : (idlePeripheral s).busy = false := rfl
@[simp] theorem idlePeripheral_inflight (s : State) : (idlePeripheral s).inflight = [] := rfl
@[simp] theorem idlePeripheral_line (s : State) : (idlePeripheral s).line = 0 := rfl
@[simp] theorem idlePeripheral_emitPos (s : State) : (idlePeripheral s).emitPos = 0 := rfl
@[simp] theorem idlePeripheral_draw (s : State) : (idlePeripheral s).draw = s.draw := rfl
@[simp] theorem idlePeripheral_env (s : State) : (idlePeripheral s).env = s.env := rfl
@[simp] theorem idlePeripheral_obs (s : State) : (idlePeripheral s).obs = s.obs := rfl

/-! `raise` -/

@[simp] theorem raise_cr (e : ErrorCause) (s : State) : (raise e s).cr = s.cr := rfl
@[simp] theorem raise_pix (e : ErrorCause) (s : State) : (raise e s).pix = s.pix := rfl
@[simp] theorem raise_wave (e : ErrorCause) (s : State) : (raise e s).wave = s.wave := rfl
@[simp] theorem raise_cfg (e : ErrorCause) (s : State) : (raise e s).cfg = s.cfg := rfl
@[simp] theorem raise_ph (e : ErrorCause) (s : State) : (raise e s).ph = s.ph := rfl
@[simp] theorem raise_status (e : ErrorCause) (s : State) : (raise e s).status = setFlag e s.status := rfl
@[simp] theorem raise_live (e : ErrorCause) (s : State) : (raise e s).live = s.live := rfl
@[simp] theorem raise_busy (e : ErrorCause) (s : State) : (raise e s).busy = s.busy := rfl
@[simp] theorem raise_inflight (e : ErrorCause) (s : State) : (raise e s).inflight = s.inflight := rfl
@[simp] theorem raise_line (e : ErrorCause) (s : State) : (raise e s).line = s.line := rfl
@[simp] theorem raise_emitPos (e : ErrorCause) (s : State) : (raise e s).emitPos = s.emitPos := rfl
@[simp] theorem raise_draw (e : ErrorCause) (s : State) : (raise e s).draw = s.draw := rfl
@[simp] theorem raise_env (e : ErrorCause) (s : State) : (raise e s).env = s.env := rfl
@[simp] theorem raise_obs (e : ErrorCause) (s : State) : (raise e s).obs = { s.obs with diag := s.obs.diag ++ errorEvents e } := rfl

/-! `endTurn` -/

@[simp] theorem endTurn_cr (s : State) : (endTurn s).cr = s.cr := rfl
@[simp] theorem endTurn_pix (s : State) : (endTurn s).pix = s.pix := rfl
@[simp] theorem endTurn_wave (s : State) : (endTurn s).wave = s.wave := rfl
@[simp] theorem endTurn_cfg (s : State) : (endTurn s).cfg = s.cfg := rfl
@[simp] theorem endTurn_ph (s : State) : (endTurn s).ph = s.ph := rfl
@[simp] theorem endTurn_status (s : State) : (endTurn s).status = s.status := rfl
@[simp] theorem endTurn_live (s : State) : (endTurn s).live = s.live := rfl
@[simp] theorem endTurn_busy (s : State) : (endTurn s).busy = s.busy := rfl
@[simp] theorem endTurn_inflight (s : State) : (endTurn s).inflight = s.inflight := rfl
@[simp] theorem endTurn_line (s : State) : (endTurn s).line = s.line := rfl
@[simp] theorem endTurn_emitPos (s : State) : (endTurn s).emitPos = s.emitPos := rfl
@[simp] theorem endTurn_draw (s : State) : (endTurn s).draw = s.draw := rfl
@[simp] theorem endTurn_env (s : State) : (endTurn s).env = { s.env with sched := s.env.sched.tail } := rfl
@[simp] theorem endTurn_obs (s : State) : (endTurn s).obs = s.obs := rfl

/-! `presentWord` -/

@[simp] theorem presentWord_cr (w : CmdWord) (s : State) : (presentWord w s).cr = s.cr := rfl
@[simp] theorem presentWord_pix (w : CmdWord) (s : State) : (presentWord w s).pix = s.pix := rfl
@[simp] theorem presentWord_wave (w : CmdWord) (s : State) : (presentWord w s).wave = s.wave := rfl
@[simp] theorem presentWord_cfg (w : CmdWord) (s : State) : (presentWord w s).cfg = s.cfg := rfl
@[simp] theorem presentWord_ph (w : CmdWord) (s : State) : (presentWord w s).ph = s.ph := rfl
@[simp] theorem presentWord_status (w : CmdWord) (s : State) : (presentWord w s).status = s.status := rfl
@[simp] theorem presentWord_live (w : CmdWord) (s : State) : (presentWord w s).live = s.live := rfl
@[simp] theorem presentWord_busy (w : CmdWord) (s : State) : (presentWord w s).busy = s.busy := rfl
@[simp] theorem presentWord_inflight (w : CmdWord) (s : State) : (presentWord w s).inflight = s.inflight := rfl
@[simp] theorem presentWord_line (w : CmdWord) (s : State) : (presentWord w s).line = s.line := rfl
@[simp] theorem presentWord_emitPos (w : CmdWord) (s : State) : (presentWord w s).emitPos = s.emitPos := rfl
@[simp] theorem presentWord_draw (w : CmdWord) (s : State) : (presentWord w s).draw = s.draw := rfl
@[simp] theorem presentWord_env (w : CmdWord) (s : State) : (presentWord w s).env = { s.env with port := .command w :: s.env.port, sched := .block :: s.env.sched } := rfl
@[simp] theorem presentWord_obs (w : CmdWord) (s : State) : (presentWord w s).obs = s.obs := rfl

end Sys2Proof.Machine
end

