-- ==== Sys2Proof/Laws/Ops.lean ====
section
/-! SUPPORT. For each shared operation, one lemma that says everything it can do; later proofs cite these instead of
unfolding the operations. -/

namespace Sys2Proof.Machine

open Host (Outcome)

theorem portFree_iff (s : State) : portFree s = true ↔ PortIsFree s := by
  simp [portFree]

/-- A command of a class is accepted exactly under its row of R100's table. -/
theorem refusalOf_eq_none (c : CmdClass) (s : State) : refusalOf c s = none ↔ AcceptedAs c s := by
  cases hl : s.live <;> cases ha : s.status.allocFail <;> cases hc : s.status.cfgErr <;>
    cases hi : s.status.installErr <;> cases hp : s.ph <;> cases c <;>
    simp [refusalOf, portFree, needsAlloc, needsPeripheral, needsIdle, AcceptedAs, ColorAccepted, PixelAccepted, ShowAccepted,
      DestroyAccepted, RdstatAccepted, PortIsFree, PeripheralReady, hl, ha, hc, hi, hp]

/-- The reasons acceptance can give. -/
theorem refusalOf_cases {c : CmdClass} {s : State} {r : Refusal} (h : refusalOf c s = some r) :
    r = .notLive ∨ r = .portHeld ∨ r = .allocFailed ∨ r = .peripheralNotReady ∨ r = .destroyInFlight := by
  simp only [refusalOf] at h
  split at h <;> [skip; split at h <;> [skip; split at h <;> [skip; split at h <;> [skip; split at h]]]] <;>
    simp_all

theorem whenAccepted_of {c : CmdClass} {s : State} (h : AcceptedAs c s) (out : Outcome State Fault Refusal) :
    whenAccepted c s out = out := by
  simp [whenAccepted, (refusalOf_eq_none c s).mpr h]

theorem whenAccepted_next {c : CmdClass} {s t : State} {out : Outcome State Fault Refusal} :
    whenAccepted c s out = .next t ↔ AcceptedAs c s ∧ out = .next t := by
  rw [← refusalOf_eq_none]
  cases h : refusalOf c s <;> simp [whenAccepted, h]

theorem colorWrite_next {cd : CReg} {c : Color} {s t : State} :
    colorWrite cd c s = .next t ↔ ColorAccepted s ∧ setReg cd c s = t := by
  rw [colorWrite, whenAccepted_next, Outcome.next.injEq]
  exact Iff.rfl

theorem colorAnswer_next {v : Word} {s t : State} :
    colorAnswer v s = .next t ↔ ColorAccepted s ∧ respond v s = t := by
  rw [colorAnswer, whenAccepted_next, Outcome.next.injEq]
  exact Iff.rfl

@[simp] theorem regsGet_regsSet_self (r : CReg) (c : Color) (f : ColorRegs) : regsGet r (regsSet r c f) = c := by
  cases r <;> rfl

theorem regsGet_regsSet_other {r q : CReg} (h : q ≠ r) (c : Color) (f : ColorRegs) :
    regsGet q (regsSet r c f) = regsGet q f := by
  cases r <;> cases q <;> first | rfl | exact absurd rfl h

@[simp] theorem raise_outOfRangeIndex (s : State) : raise .outOfRangeIndex s = s := by
  simp [raise, setFlag, errorEvents]

/-- A pixel write writes its pixel or does nothing (41_strip R101, R110). -/
theorem pixelStore_cases (idx : PixIdx) (c : Color) (s : State) :
    (idx.toNat < s.cfg.length ∧ pixelStore idx c s = putPixel idx.toNat c s) ∨
      (s.cfg.length ≤ idx.toNat ∧ pixelStore idx c s = s) := by
  by_cases h : idx.toNat < s.cfg.length
  · exact .inl ⟨h, by simp [pixelStore, idxInRange, h]⟩
  · exact .inr ⟨by omega, by simp [pixelStore, idxInRange, h]⟩

/-- `transmit` hands off the snapshot of WAVE or faults. -/
theorem transmit_next {s t : State} :
    transmit s = .next t ↔
      s.busy = false ∧ ¬(nitems s.cfg = 0 ∧ s.cfg.zeroCountTxOk = false) ∧ nextAnswer s.env.txAnswers = .ok ∧
        ∃ items, waveRead 0 (nitems s.cfg) s.wave = some items ∧ handOff items (callTransmit s) = t := by
  unfold transmit
  cases hb : s.busy <;> simp only [Bool.false_eq_true, if_false, if_true]
  · by_cases hz : nitems s.cfg = 0 ∧ s.cfg.zeroCountTxOk = false
    · simp [hz]
    · rw [if_neg hz]
      cases ha : nextAnswer s.env.txAnswers <;> cases hw : waveRead 0 (nitems s.cfg) s.wave <;> simp [hz]
  · simp

theorem waveRead_mkwave (s : State) :
    waveRead 0 (nitems s.cfg) (cellsFrom 0 (encodeFrame s.cfg s.pix)) = some (encodeFrame s.cfg s.pix) := by
  rw [← length_encodeFrame s.cfg s.pix, waveRead_cellsFrom]

/-- What SHOW leaves when it goes through PH = ENC. -/
def shown (s : State) : State :=
  setPhase .tx (handOff (encodeFrame s.cfg s.pix) (callTransmit (emitDiag (.frameBits (nitems s.cfg)) (mkwave s))))

/-- SHOW in PH = ENC completes exactly when the peripheral takes the frame. -/
theorem showEncode_next {s t : State} :
    showEncode s = .next t ↔
      s.busy = false ∧ ¬(nitems s.cfg = 0 ∧ s.cfg.zeroCountTxOk = false) ∧ nextAnswer s.env.txAnswers = .ok ∧
        shown s = t := by
  have key : ∀ u, transmit (emitDiag (.frameBits (nitems s.cfg)) (mkwave s)) = .next u ↔
      s.busy = false ∧ ¬(nitems s.cfg = 0 ∧ s.cfg.zeroCountTxOk = false) ∧ nextAnswer s.env.txAnswers = .ok ∧
        handOff (encodeFrame s.cfg s.pix) (callTransmit (emitDiag (.frameBits (nitems s.cfg)) (mkwave s))) = u := by
    intro u
    rw [transmit_next]
    simp [waveRead_mkwave]
  unfold showEncode
  cases h : transmit (emitDiag (.frameBits (nitems s.cfg)) (mkwave s)) with
  | next u =>
    obtain ⟨h1, h2, h3, h4⟩ := (key u).mp h
    subst h4
    rw [Outcome.next.injEq, and_iff_right h1, and_iff_right h2, and_iff_right h3]
    rfl
  | fault r =>
    simp only [reduceCtorEq, false_iff]
    rintro ⟨h1, h2, h3, -⟩
    have := (key _).mpr ⟨h1, h2, h3, rfl⟩
    simp [h] at this
  | refused r =>
    simp only [reduceCtorEq, false_iff]
    rintro ⟨h1, h2, h3, -⟩
    have := (key _).mpr ⟨h1, h2, h3, rfl⟩
    simp [h] at this

/-- `transmit` completes or faults; it refuses nothing. -/
theorem transmit_not_refused (s : State) (r : Refusal) : transmit s ≠ .refused r := by
  unfold transmit
  split
  · simp
  · split
    · simp
    · cases nextAnswer s.env.txAnswers
      · cases waveRead 0 (nitems s.cfg) s.wave <;> simp
      · simp

theorem showEncode_not_refused (s : State) (r : Refusal) : showEncode s ≠ .refused r := by
  unfold showEncode
  cases h : transmit (emitDiag (.frameBits (nitems s.cfg)) (mkwave s)) with
  | next t => simp
  | fault f => simp
  | refused q => exact absurd h (transmit_not_refused _ q)

/-- The one reason a SHOW in progress can be refused (93 U11). -/
theorem showWait_refused {s : State} {r : Refusal} (h : showWait s = .refused r) : r = .finiteTimeout := by
  unfold showWait at h
  cases hb : s.busy
  · cases ha : nextAnswer s.env.waitAnswers
    · simp only [hb, ha, Bool.false_eq_true, if_false] at h
      exact absurd h (showEncode_not_refused _ r)
    · simp [hb, ha] at h
  · cases hw : waitTimesOut s <;> simp [hb, hw] at h
    exact h.symm

/-- A SHOW in PH = WAIT either stays there, with BUSY = 1, or completes, with BUSY = 0. -/
theorem showWait_next {s t : State} :
    showWait s = .next t ↔
      (s.busy = true ∧ waitTimesOut s = false ∧ s = t) ∨
      (s.busy = false ∧ nextAnswer s.env.waitAnswers = .ok ∧
        showEncode (setPhase .enc (consumeWaitAnswer s)) = .next t) := by
  unfold showWait
  cases hb : s.busy
  · cases ha : nextAnswer s.env.waitAnswers <;> simp
  · cases hw : waitTimesOut s <;> simp

/-- What a SHOW leaves that finds the peripheral idle (41_strip R104). -/
def showDone (s : State) : State := shown (setPhase .enc (consumeWaitAnswer (callWaitIdle (setPhase .wait s))))

@[simp] theorem showDone_cr (s : State) : (showDone s).cr = s.cr := by
  simp [showDone, shown]

@[simp] theorem showDone_pix (s : State) : (showDone s).pix = s.pix := by
  simp [showDone, shown]

@[simp] theorem showDone_wave (s : State) : (showDone s).wave = cellsFrom 0 (encodeFrame s.cfg s.pix) := by
  simp [showDone, shown]

@[simp] theorem showDone_cfg (s : State) : (showDone s).cfg = s.cfg := by
  simp [showDone, shown]

@[simp] theorem showDone_ph (s : State) : (showDone s).ph = .tx := by
  simp [showDone, shown]

@[simp] theorem showDone_status (s : State) : (showDone s).status = s.status := by
  simp [showDone, shown]

@[simp] theorem showDone_live (s : State) : (showDone s).live = s.live := by
  simp [showDone, shown]

@[simp] theorem showDone_busy (s : State) : (showDone s).busy = true := by
  simp [showDone, shown]

@[simp] theorem showDone_inflight (s : State) : (showDone s).inflight = encodeFrame s.cfg s.pix := by
  simp [showDone, shown]

@[simp] theorem showDone_line (s : State) : (showDone s).line = s.line := by
  simp [showDone, shown]

@[simp] theorem showDone_emitPos (s : State) : (showDone s).emitPos = 0 := by
  simp [showDone, shown]

@[simp] theorem showDone_draw (s : State) : (showDone s).draw = s.draw := by
  simp [showDone, shown]

@[simp] theorem showDone_env (s : State) : (showDone s).env = { s.env with waitAnswers := s.env.waitAnswers.tail, txAnswers := s.env.txAnswers.tail } := by
  simp [showDone, shown]

@[simp] theorem showDone_obs (s : State) : (showDone s).obs =
    { s.obs with
      diag := s.obs.diag ++ [.frameBits (nitems s.cfg)]
      frames := s.obs.frames ++ [encodeFrame s.cfg s.pix]
      calls := s.obs.calls ++
        [.waitIdle s.cfg.channel s.cfg.waitTimeout, .transmit s.cfg.channel (nitems s.cfg) false] } := by
  simp [showDone, shown]

/-- Everything SHOW can answer: it waits with BUSY = 1, or completes with BUSY = 0 and a peripheral that answers Ok. -/
theorem execShow_next {s t : State} :
    execShow s = .next t ↔
      ShowAccepted s ∧
        ((s.busy = true ∧ waitTimesOut s = false ∧ callWaitIdle (setPhase .wait s) = t) ∨
          (s.busy = false ∧ nextAnswer s.env.waitAnswers = .ok ∧
            ¬(nitems s.cfg = 0 ∧ s.cfg.zeroCountTxOk = false) ∧ nextAnswer s.env.txAnswers = .ok ∧ showDone s = t)) := by
  rw [execShow, whenAccepted_next, showWait_next, showEncode_next]
  have ht : waitTimesOut (callWaitIdle (setPhase .wait s)) = waitTimesOut s := rfl
  simp only [ht, callWaitIdle_busy, setPhase_busy, callWaitIdle_cfg, setPhase_cfg, callWaitIdle_env, setPhase_env,
    consumeWaitAnswer_busy, consumeWaitAnswer_cfg, consumeWaitAnswer_env]
  constructor
  · rintro ⟨ha, h | ⟨h1, h2, -, h4, h5, h6⟩⟩
    · exact ⟨ha, .inl h⟩
    · exact ⟨ha, .inr ⟨h1, h2, h4, h5, h6⟩⟩
  · rintro ⟨ha, h | ⟨h1, h2, h4, h5, h6⟩⟩
    · exact ⟨ha, .inl h⟩
    · exact ⟨ha, .inr ⟨h1, h2, h1, h4, h5, h6⟩⟩

/-- A turn of the peripheral does nothing, drives one phase, or completes the frame. -/
theorem peripheralTurn_cases (s : State) :
    (s.busy = false ∧ peripheralTurn s = s) ∨
    (s.busy = true ∧ ∃ p, phaseAt s.inflight s.emitPos = some p ∧ peripheralTurn s = drivePhase p s) ∨
    (s.busy = true ∧ phaseAt s.inflight s.emitPos = none ∧ peripheralTurn s = complete s) := by
  unfold peripheralTurn
  cases hb : s.busy
  · simp
  · cases hp : phaseAt s.inflight s.emitPos <;> simp

/-- Phases are driven up to two for each item of the frame. -/
theorem phaseAt_eq_none {items : List Item} {n : Nat} : phaseAt items n = none ↔ 2 * items.length ≤ n := by
  unfold phaseAt
  cases h : items[n / 2]? with
  | none => simp at h; simp; omega
  | some it =>
    have := (List.getElem?_eq_some_iff.mp h).1
    by_cases hn : n % 2 = 0 <;> simp [hn] <;> omega

theorem turnOf_cons {s : State} {a : Agent} {rest : List Agent} (h : s.env.sched = a :: rest) : turnOf s = a := by
  simp [turnOf, h]

theorem step_block {s : State} (h : turnOf s = .block) : step s = blockTurn (endTurn s) := by
  simp [step, h, takeTurn]

theorem step_peripheral {s : State} (h : turnOf s = .peripheral) :
    step s = .next (peripheralTurn (endTurn s)) := by
  simp [step, h, takeTurn]

/-- The state right after reset is what a clean construction with its arguments leaves (70_reset R170, 10_state R26). -/
theorem reset_eq_construct :
    State.reset =
      construct { cfg := resetConfig, allocPixOk := true, allocWaveOk := true, cfgResult := .ok, installResult := .ok }
        { State.reset with live := false, obs := { State.reset.obs with calls := [] } } := by
  rfl

end Sys2Proof.Machine
end

