-- ==== Sys2Proof/Laws/Construct.lean ====
section
/-! SUPPORT. What a construction leaves in each field (70_reset R170, R171), whatever its inputs. -/

namespace Sys2Proof.Machine

/-- An allocation failed. -/
def ConstructArgs.allocFailed (a : ConstructArgs) : Bool := !(a.allocPixOk && a.allocWaveOk)

/-- The peripheral was not set up. -/
def ConstructArgs.setupFailed (a : ConstructArgs) : Bool :=
  decide (a.cfgResult = .err) || decide (a.installResult = .err)

/-- The count of free-value draws at which the peripheral's side is drawn. -/
def ConstructArgs.peripheralDraw (a : ConstructArgs) (s : State) : Nat :=
  if ConstructArgs.allocFailed a then s.draw + 1 else s.draw

theorem construct_status (a : ConstructArgs) (s : State) :
    (construct a s).status =
      { allocFail := ConstructArgs.allocFailed a
        cfgErr := decide (a.cfgResult = .err)
        installErr := decide (a.installResult = .err) } := by
  obtain ⟨cfg, p, w, c, i⟩ := a
  cases p <;> cases w <;> cases c <;> cases i <;> rfl

theorem construct_cfg (a : ConstructArgs) (s : State) : (construct a s).cfg = a.cfg := by
  obtain ⟨cfg, p, w, c, i⟩ := a
  cases p <;> cases w <;> cases c <;> cases i <;> rfl

theorem construct_ph (a : ConstructArgs) (s : State) : (construct a s).ph = .idle := by
  obtain ⟨cfg, p, w, c, i⟩ := a
  cases p <;> cases w <;> cases c <;> cases i <;> rfl

theorem construct_live (a : ConstructArgs) (s : State) : (construct a s).live = true := by
  obtain ⟨cfg, p, w, c, i⟩ := a
  cases p <;> cases w <;> cases c <;> cases i <;> rfl

theorem construct_wave (a : ConstructArgs) (s : State) : (construct a s).wave = [] := by
  obtain ⟨cfg, p, w, c, i⟩ := a
  cases p <;> cases w <;> cases c <;> cases i <;> rfl

theorem construct_emitPos (a : ConstructArgs) (s : State) : (construct a s).emitPos = 0 := by
  obtain ⟨cfg, p, w, c, i⟩ := a
  cases p <;> cases w <;> cases c <;> cases i <;> rfl

theorem construct_cr (a : ConstructArgs) (s : State) :
    (construct a s).cr =
      if ConstructArgs.allocFailed a then freeRegs s.draw else { c0 := black, c1 := black, c2 := black, c3 := black } := by
  obtain ⟨cfg, p, w, c, i⟩ := a
  cases p <;> cases w <;> cases c <;> cases i <;> rfl

theorem construct_pix (a : ConstructArgs) (s : State) :
    (construct a s).pix =
      if ConstructArgs.allocFailed a then pixFill a.cfg.length (Config.freePixel s.draw) else [] := by
  obtain ⟨cfg, p, w, c, i⟩ := a
  cases p <;> cases w <;> cases c <;> cases i <;> rfl

theorem construct_busy (a : ConstructArgs) (s : State) :
    (construct a s).busy =
      if ConstructArgs.setupFailed a then Config.freeBusy (ConstructArgs.peripheralDraw a s) else false := by
  obtain ⟨cfg, p, w, c, i⟩ := a
  cases p <;> cases w <;> cases c <;> cases i <;> rfl

theorem construct_inflight (a : ConstructArgs) (s : State) :
    (construct a s).inflight =
      if ConstructArgs.setupFailed a then Config.freeInflight (ConstructArgs.peripheralDraw a s) else [] := by
  obtain ⟨cfg, p, w, c, i⟩ := a
  cases p <;> cases w <;> cases c <;> cases i <;> rfl

theorem construct_line (a : ConstructArgs) (s : State) :
    (construct a s).line =
      if ConstructArgs.setupFailed a then Config.freeLine (ConstructArgs.peripheralDraw a s) else 0 := by
  obtain ⟨cfg, p, w, c, i⟩ := a
  cases p <;> cases w <;> cases c <;> cases i <;> rfl

theorem construct_env (a : ConstructArgs) (s : State) : (construct a s).env = s.env := by
  obtain ⟨cfg, p, w, c, i⟩ := a
  cases p <;> cases w <;> cases c <;> cases i <;> rfl

theorem construct_calls (a : ConstructArgs) (s : State) :
    (construct a s).obs.calls =
      (s.obs.calls ++ [.configure a.cfg.pin a.cfg.channel a.cfg.clkdiv .oneShot 0 true false]) ++
        [.install a.cfg.channel] := by
  obtain ⟨cfg, p, w, c, i⟩ := a
  cases p <;> cases w <;> cases c <;> cases i <;> rfl

theorem construct_diag (a : ConstructArgs) (s : State) :
    (construct a s).obs.diag =
      (if a.allocPixOk then [] else [.allocFail .pixels]) ++ (if a.allocWaveOk then [] else [.allocFail .waveform]) ++
      (if a.cfgResult = .ok then [] else [.cfgErr]) ++ (if a.installResult = .ok then [] else [.installErr]) := by
  obtain ⟨cfg, p, w, c, i⟩ := a
  cases p <;> cases w <;> cases c <;> cases i <;> rfl

/-- A host's construction is accepted with LIVE = 0 and a legal configuration only. -/
theorem hostConstruct_next {a : ConstructArgs} {s t : State} :
    hostConstruct a s = .next t ↔ s.live = false ∧ a.cfg.wellFormed = true ∧ construct a s = t := by
  unfold hostConstruct
  cases hl : s.live <;> cases hw : a.cfg.wellFormed <;> simp

end Sys2Proof.Machine
end

