-- ==== Sys2Proof/Laws/PerInstr.lean ====
section
/-! SUPPORT. One family of statements about every command as syntax: its word lies in its own row of the table of
30_encoding R67 (family Row). -/

namespace Sys2Proof.Laws

/-- The word of a command matches the command's row (R67). -/
def Row.Statement (i : Instr) : Prop := encode i &&& rowMask i = rowMatch i

namespace Row

/-- A command whose fields, masked, are its row's fields. -/
theorem of_fields {i : Instr} {m r : Fields} (hm : fieldsOf (rowMask i) = m) (hr : fieldsOf (rowMatch i) = r)
    (h : andFields (encodeFields i) m = r) : Statement i := by
  rw [Statement, and_eq_iff, encode, fieldsOf_wordOf, hm, hr]
  exact h

theorem mask_imm : fieldsOf 0xFF3FFFFF00000000 = ⟨0xff, 0x0, 0x3, 0xf, 0xffff, 0x0⟩ := by decide
theorem mask_two : fieldsOf 0xFF0FFFFFFFFFFFFF = ⟨0xff, 0x0, 0x0, 0xf, 0xffff, 0xffffffff⟩ := by decide
theorem mask_reg : fieldsOf 0xFF3FFFFFFFFFFFFF = ⟨0xff, 0x0, 0x3, 0xf, 0xffff, 0xffffffff⟩ := by decide
theorem mask_byte : fieldsOf 0xFF3FFFFFFFFFFF00 = ⟨0xff, 0x0, 0x3, 0xf, 0xffff, 0xffffff00⟩ := by decide
theorem mask_pixreg : fieldsOf 0xFFCF0000FFFFFFFF = ⟨0xff, 0x3, 0x0, 0xf, 0x0, 0xffffffff⟩ := by decide
theorem mask_piximm : fieldsOf 0xFFFF000000000000 = ⟨0xff, 0x3, 0x3, 0xf, 0x0, 0x0⟩ := by decide
theorem mask_none : fieldsOf 0xFFFFFFFFFFFFFFFF = ⟨0xff, 0x3, 0x3, 0xf, 0xffff, 0xffffffff⟩ := by decide
theorem match_of_csetrgbw : fieldsOf 0x0100000000000000 = fieldsN 0x01 := by decide
theorem match_of_csetcolor : fieldsOf 0x0200000000000000 = fieldsN 0x02 := by decide
theorem match_of_cset32 : fieldsOf 0x0300000000000000 = fieldsN 0x03 := by decide
theorem match_of_cget32 : fieldsOf 0x0400000000000000 = fieldsN 0x04 := by decide
theorem match_of_csetr : fieldsOf 0x0500000000000000 = fieldsN 0x05 := by decide
theorem match_of_csetg : fieldsOf 0x0600000000000000 = fieldsN 0x06 := by decide
theorem match_of_csetb : fieldsOf 0x0700000000000000 = fieldsN 0x07 := by decide
theorem match_of_csetw : fieldsOf 0x0800000000000000 = fieldsN 0x08 := by decide
theorem match_of_cgetr : fieldsOf 0x0900000000000000 = fieldsN 0x09 := by decide
theorem match_of_cgetg : fieldsOf 0x0A00000000000000 = fieldsN 0x0A := by decide
theorem match_of_cgetb : fieldsOf 0x0B00000000000000 = fieldsN 0x0B := by decide
theorem match_of_cgetw : fieldsOf 0x0C00000000000000 = fieldsN 0x0C := by decide
theorem match_of_setpixc : fieldsOf 0x1000000000000000 = fieldsN 0x10 := by decide
theorem match_of_setpixrgbw : fieldsOf 0x1100000000000000 = fieldsN 0x11 := by decide
theorem match_of_clear : fieldsOf 0x1200000000000000 = fieldsN 0x12 := by decide
theorem match_of_showStrip : fieldsOf 0x1300000000000000 = fieldsN 0x13 := by decide
theorem match_of_destroy : fieldsOf 0x1400000000000000 = fieldsN 0x14 := by decide
theorem match_of_rdstat : fieldsOf 0x1500000000000000 = fieldsN 0x15 := by decide

theorem immByte_high (v : Byte) : immByte v &&& 4294967040#32 = 0#32 := by
  revert v; decide

theorem csetrgbw (cd : CReg) (r g b w : Byte) : Statement (.csetrgbw cd r g b w) :=
  of_fields mask_imm match_of_csetrgbw (by simp [andFields, encodeFields, fieldsC, fieldsN])

theorem csetcolor (cd cs : CReg) : Statement (.csetcolor cd cs) :=
  of_fields mask_two match_of_csetcolor (by simp [andFields, encodeFields, fieldsC, fieldsN])

theorem cset32 (cd : CReg) (packed : Word) : Statement (.cset32 cd packed) :=
  of_fields mask_imm match_of_cset32 (by simp [andFields, encodeFields, fieldsC, fieldsN])

theorem cget32 (cd : CReg) : Statement (.cget32 cd) :=
  of_fields mask_reg match_of_cget32 (by simp [andFields, encodeFields, fieldsC, fieldsN])

theorem csetr (cd : CReg) (v : Byte) : Statement (.csetr cd v) :=
  of_fields mask_byte match_of_csetr (by simp [andFields, encodeFields, fieldsC, fieldsN, immByte_high])

theorem csetg (cd : CReg) (v : Byte) : Statement (.csetg cd v) :=
  of_fields mask_byte match_of_csetg (by simp [andFields, encodeFields, fieldsC, fieldsN, immByte_high])

theorem csetb (cd : CReg) (v : Byte) : Statement (.csetb cd v) :=
  of_fields mask_byte match_of_csetb (by simp [andFields, encodeFields, fieldsC, fieldsN, immByte_high])

theorem csetw (cd : CReg) (v : Byte) : Statement (.csetw cd v) :=
  of_fields mask_byte match_of_csetw (by simp [andFields, encodeFields, fieldsC, fieldsN, immByte_high])

theorem cgetr (cd : CReg) : Statement (.cgetr cd) :=
  of_fields mask_reg match_of_cgetr (by simp [andFields, encodeFields, fieldsC, fieldsN])

theorem cgetg (cd : CReg) : Statement (.cgetg cd) :=
  of_fields mask_reg match_of_cgetg (by simp [andFields, encodeFields, fieldsC, fieldsN])

theorem cgetb (cd : CReg) : Statement (.cgetb cd) :=
  of_fields mask_reg match_of_cgetb (by simp [andFields, encodeFields, fieldsC, fieldsN])

theorem cgetw (cd : CReg) : Statement (.cgetw cd) :=
  of_fields mask_reg match_of_cgetw (by simp [andFields, encodeFields, fieldsC, fieldsN])

theorem setpixc (idx : PixIdx) (cs : CReg) : Statement (.setpixc idx cs) :=
  of_fields mask_pixreg match_of_setpixc (by simp [andFields, encodeFields, fieldsP, fieldsN])

theorem setpixrgbw (idx : PixIdx) (r g b w : Byte) : Statement (.setpixrgbw idx r g b w) :=
  of_fields mask_piximm match_of_setpixrgbw (by simp [andFields, encodeFields, fieldsP, fieldsN])

theorem clear : Statement .clear :=
  of_fields mask_none match_of_clear (by simp [andFields, encodeFields, fieldsN])

theorem showStrip : Statement .showStrip :=
  of_fields mask_none match_of_showStrip (by simp [andFields, encodeFields, fieldsN])

theorem destroy : Statement .destroy :=
  of_fields mask_none match_of_destroy (by simp [andFields, encodeFields, fieldsN])

theorem rdstat : Statement .rdstat :=
  of_fields mask_none match_of_rdstat (by simp [andFields, encodeFields, fieldsN])

end Row

end Sys2Proof.Laws
end

