-- ==== Sys2Proof/Laws/Step.lean ====
section
/-! SUPPORT. Everything a command and a step can do when they answer a next state: the inversions that whole-machine
statements cite. -/

namespace Sys2Proof.Machine

open Host (Outcome)

/-- Everything a command can do. -/
theorem exec_cases {i : Instr} {s t : State} (h : exec i s = .next t) :
    (classOf i = .color ∧ answers i = false ∧ ColorAccepted s ∧ ∃ cd c, destReg i = some cd ∧ t = setReg cd c s) ∨
    (classOf i = .color ∧ answers i = true ∧ destReg i = none ∧ ColorAccepted s ∧ ∃ v, t = respond v s) ∨
    (classOf i = .pixel ∧ PixelAccepted s ∧ ∃ idx c, t = pixelStore idx c s) ∨
    (i = .clear ∧ PixelAccepted s ∧ t = { s with pix := pixClear s.cfg.length s.pix }) ∨
    (i = .showStrip ∧ ShowAccepted s ∧ s.busy = true ∧ waitTimesOut s = false ∧
      t = callWaitIdle (setPhase .wait s)) ∨
    (i = .showStrip ∧ ShowAccepted s ∧ s.busy = false ∧ t = showDone s) ∨
    (i = .destroy ∧ DestroyAccepted s ∧ t = loseContents { s with live := false }) ∨
    (i = .rdstat ∧ RdstatAccepted s ∧ t = respond (statusWord s.ph s.status) s) := by
  have write : ∀ cd c, colorWrite cd c s = .next t → ColorAccepted s ∧ t = setReg cd c s := fun cd c h =>
    (colorWrite_next.mp h).imp id Eq.symm
  have answer : ∀ v, colorAnswer v s = .next t → ColorAccepted s ∧ t = respond v s := fun v h =>
    (colorAnswer_next.mp h).imp id Eq.symm
  have plain : ∀ c u, whenAccepted c s (.next u) = .next t → AcceptedAs c s ∧ t = u := by
    intro c u h
    obtain ⟨ha, h⟩ := whenAccepted_next.mp h
    cases h
    exact ⟨ha, rfl⟩
  cases i with
  | csetrgbw cd r g b w => exact .inl ⟨rfl, rfl, (write _ _ h).1, cd, _, rfl, (write _ _ h).2⟩
  | csetcolor cd cs => exact .inl ⟨rfl, rfl, (write _ _ h).1, cd, _, rfl, (write _ _ h).2⟩
  | cset32 cd packed => exact .inl ⟨rfl, rfl, (write _ _ h).1, cd, _, rfl, (write _ _ h).2⟩
  | csetr cd v => exact .inl ⟨rfl, rfl, (write _ _ h).1, cd, _, rfl, (write _ _ h).2⟩
  | csetg cd v => exact .inl ⟨rfl, rfl, (write _ _ h).1, cd, _, rfl, (write _ _ h).2⟩
  | csetb cd v => exact .inl ⟨rfl, rfl, (write _ _ h).1, cd, _, rfl, (write _ _ h).2⟩
  | csetw cd v => exact .inl ⟨rfl, rfl, (write _ _ h).1, cd, _, rfl, (write _ _ h).2⟩
  | cget32 cd => exact .inr <| .inl ⟨rfl, rfl, rfl, (answer _ h).1, _, (answer _ h).2⟩
  | cgetr cd => exact .inr <| .inl ⟨rfl, rfl, rfl, (answer _ h).1, _, (answer _ h).2⟩
  | cgetg cd => exact .inr <| .inl ⟨rfl, rfl, rfl, (answer _ h).1, _, (answer _ h).2⟩
  | cgetb cd => exact .inr <| .inl ⟨rfl, rfl, rfl, (answer _ h).1, _, (answer _ h).2⟩
  | cgetw cd => exact .inr <| .inl ⟨rfl, rfl, rfl, (answer _ h).1, _, (answer _ h).2⟩
  | setpixc idx cs => exact .inr <| .inr <| .inl ⟨rfl, (plain _ _ h).1, idx, _, (plain _ _ h).2⟩
  | setpixrgbw idx r g b w => exact .inr <| .inr <| .inl ⟨rfl, (plain _ _ h).1, idx, _, (plain _ _ h).2⟩
  | clear => exact .inr <| .inr <| .inr <| .inl ⟨rfl, (plain _ _ h).1, (plain _ _ h).2⟩
  | showStrip =>
    obtain ⟨ha, ⟨hb, hf, he⟩ | ⟨hb, -, -, -, he⟩⟩ := execShow_next.mp h
    · exact .inr <| .inr <| .inr <| .inr <| .inl ⟨rfl, ha, hb, hf, he.symm⟩
    · exact .inr <| .inr <| .inr <| .inr <| .inr <| .inl ⟨rfl, ha, hb, he.symm⟩
  | destroy =>
    exact .inr <| .inr <| .inr <| .inr <| .inr <| .inr <| .inl ⟨rfl, (plain _ _ h).1, (plain _ _ h).2⟩
  | rdstat =>
    exact .inr <| .inr <| .inr <| .inr <| .inr <| .inr <| .inr ⟨rfl, (plain _ _ h).1, (plain _ _ h).2⟩

/-- The state the block sees when it takes the first input off the port on its turn. -/
def portPopped (rest : List HostInput) (s : State) : State :=
  { s with env := { s.env with port := rest, sched := s.env.sched.tail } }

/-- Everything a step can do. -/
theorem step_cases {s t : State} (h : step s = .next t) :
    (turnOf s = .peripheral ∧ t = peripheralTurn (endTurn s)) ∨
    (turnOf s = .block ∧ s.ph = .wait ∧ showWait (endTurn s) = .next t) ∨
    (turnOf s = .block ∧ s.ph = .enc ∧ showEncode (endTurn s) = .next t) ∨
    (turnOf s = .block ∧ PortIsFree s ∧ s.env.port = [] ∧ t = endTurn s) ∨
    (turnOf s = .block ∧ PortIsFree s ∧ ∃ w rest i, s.env.port = .command w :: rest ∧ decode w = .ok i ∧
      exec i (portPopped rest s) = .next t) ∨
    (turnOf s = .block ∧ PortIsFree s ∧ ∃ a rest, s.env.port = .construct a :: rest ∧ s.live = false ∧
      a.cfg.wellFormed = true ∧ t = construct a (portPopped rest s)) := by
  cases ht : turnOf s with
  | peripheral =>
    rw [step_peripheral ht] at h
    cases h
    exact .inl ⟨rfl, rfl⟩
  | block =>
    rw [step_block ht] at h
    have free : PortIsFree s → acceptNext (endTurn s) = .next t →
        (s.env.port = [] ∧ t = endTurn s) ∨
        (∃ w rest i, s.env.port = .command w :: rest ∧ decode w = .ok i ∧ exec i (portPopped rest s) = .next t) ∨
        (∃ a rest, s.env.port = .construct a :: rest ∧ s.live = false ∧ a.cfg.wellFormed = true ∧
          t = construct a (portPopped rest s)) := by
      intro _ h
      unfold acceptNext at h
      cases hp : s.env.port with
      | nil =>
        rw [show (endTurn s).env.port = s.env.port from rfl, hp] at h
        cases h
        exact .inl ⟨rfl, rfl⟩
      | cons x rest =>
        rw [show (endTurn s).env.port = s.env.port from rfl, hp] at h
        cases x with
        | command w =>
          have h : hostCommand w (portPopped rest s) = .next t := h
          unfold hostCommand at h
          cases hd : decode w with
          | error e => rw [hd] at h; cases h
          | ok i => rw [hd] at h; exact .inr <| .inl ⟨w, rest, i, rfl, hd, h⟩
        | construct a =>
          obtain ⟨hl, hw, h⟩ := hostConstruct_next.mp (show hostConstruct a (portPopped rest s) = .next t from h)
          exact .inr <| .inr ⟨a, rest, rfl, hl, hw, h.symm⟩
    unfold blockTurn at h
    rw [show (endTurn s).ph = s.ph from rfl] at h
    cases hp : s.ph with
    | wait => rw [hp] at h; exact .inr <| .inl ⟨rfl, rfl, h⟩
    | enc => rw [hp] at h; exact .inr <| .inr <| .inl ⟨rfl, rfl, h⟩
    | idle =>
      rw [hp] at h
      rcases free (.inl hp) h with h | h | h
      · exact .inr <| .inr <| .inr <| .inl ⟨rfl, .inl hp, h⟩
      · exact .inr <| .inr <| .inr <| .inr <| .inl ⟨rfl, .inl hp, h⟩
      · exact .inr <| .inr <| .inr <| .inr <| .inr ⟨rfl, .inl hp, h⟩
    | tx =>
      rw [hp] at h
      rcases free (.inr hp) h with h | h | h
      · exact .inr <| .inr <| .inr <| .inl ⟨rfl, .inr hp, h⟩
      · exact .inr <| .inr <| .inr <| .inr <| .inl ⟨rfl, .inr hp, h⟩
      · exact .inr <| .inr <| .inr <| .inr <| .inr ⟨rfl, .inr hp, h⟩

end Sys2Proof.Machine
end

