-- ==== Sys2Proof/Tests/Slice0.lean ====
section
/-! SUPPORT. Tests with results from the spec's vectors (95_test_vectors), the smoke tests of WellFormed, the words of every
command, and for every obligation with hypotheses a concrete state and operands that meet them. -/

namespace Sys2Proof.Tests

open Sys2Proof.Machine
open Host (Outcome)

/-! ### Helpers -/

/-- A field of the next state, if there is one. -/
def after {α : Type} (o : Outcome State Fault Refusal) (f : State → α) : Option α :=
  match o with
  | .next t => some (f t)
  | .fault _ => none
  | .refused _ => none

/-- A Color as the vectors write it. -/
def col (r g b w : Byte) : Color := { red := r, green := g, blue := b, white := w }

/-- Reset with one register set. -/
def withReg (r : CReg) (c : Color) : State := setReg r c State.reset

/-- Reset with the given pixels, LENGTH being their number. -/
def withPixels (cs : List Color) : State :=
  { State.reset with
    cfg := { resetConfig with length := cs.length }
    pix := pixFill cs.length (fun i => cs.getD i black) }

/-- The items of bits, with the durations 4, 8, 8, 4 of 95_test_vectors. -/
def items (bits : List Nat) : List Item :=
  bits.map (fun b =>
    if b = 0 then { level0 := 1, duration0 := 4, level1 := 0, duration1 := 8 }
    else { level0 := 1, duration0 := 8, level1 := 0, duration1 := 4 })

/-- Eight zero-bits and eight one-bits. -/
def z8 : List Nat := [0, 0, 0, 0, 0, 0, 0, 0]
def o8 : List Nat := [1, 1, 1, 1, 1, 1, 1, 1]

/-- One pixel, red. -/
def redStrip : State := withPixels [col 255 0 0 0]

/-- PH = TX, BUSY = 1: what a SHOW of `redStrip` leaves, nothing emitted yet. -/
def inTx : State := showDone redStrip

/-- PH = WAIT behind that frame. -/
def waiting : State := callWaitIdle (setPhase .wait inTx)

/-- An ended life. -/
def dead : State := { State.reset with live := false }

/-- Legal construction arguments with LENGTH = 1. -/
def oneArgs : ConstructArgs :=
  { cfg := { resetConfig with length := 1 }, allocPixOk := true, allocWaveOk := true, cfgResult := .ok, installResult := .ok }

/-- Words on the port, and the block's turns first. -/
def fed (ws : List CmdWord) (s : State) : State :=
  { s with env := { s.env with port := ws.map .command, sched := ws.map (fun _ => .block) } }

/-! ### WellFormed smoke tests: an ill-formed term for each check -/

theorem test_regOk : regOk 3 = true ∧ regOk 4 = false := by decide
theorem test_byteOk : byteOk 255 = true ∧ byteOk 256 = false := by decide
theorem test_idxOk : idxOk 65535 = true ∧ idxOk 65536 = false := by decide
theorem test_packedOk : packedOk 4294967295 = true ∧ packedOk 4294967296 = false := by decide

theorem test_asm_refused :
    assemble (.csetrgbw 4 0 0 0 0) = none ∧ assemble (.csetr 0 256) = none ∧ assemble (.setpixc 65536 0) = none ∧
    assemble (.cset32 0 4294967296) = none ∧ assemble (.setpixrgb 0 0 0 256) = none ∧ assemble (.csetcolor 0 4) = none := by
  decide

theorem test_lengthOk :
    { resetConfig with length := 65535 }.wellFormed = true ∧ { resetConfig with length := 65536 }.wellFormed = false := by
  decide

theorem test_durationsOk :
    { resetConfig with t0h := 0 }.wellFormed = false ∧ { resetConfig with t0l := 0 }.wellFormed = false ∧
    { resetConfig with t0h := 0, t1h := 0 }.durationsOk = false ∧ { resetConfig with t1l := 0 }.wellFormed = false := by
  decide

theorem test_asymmetric :
    resetConfig.wellFormed = true ∧ { resetConfig with t1h := 4 }.wellFormed = false := by
  decide

theorem test_illegal_config_refused :
    hostConstruct { oneArgs with cfg := { resetConfig with length := 65536 } } dead = .refused .illegalConfig := by
  rfl

/-! ### Decode: a word written from the encoding for every command (95 §2.2, §2.3), and the illegal words of 95 §2.7 -/

theorem test_decode_csetrgbw : decode 0x0140000001020304 = .ok (.csetrgbw .c1 1 2 3 4) := by decide
theorem test_decode_csetcolor : decode 0x0290000000000000 = .ok (.csetcolor .c2 .c1) := by decide
theorem test_decode_cset32 : decode 0x0300000012345678 = .ok (.cset32 .c0 0x12345678) := by decide
theorem test_decode_cget32 : decode 0x04C0000000000000 = .ok (.cget32 .c3) := by decide
theorem test_decode_csetr : decode 0x05C00000000000AA = .ok (.csetr .c3 0xAA) := by decide
theorem test_decode_csetg : decode 0x06C00000000000BB = .ok (.csetg .c3 0xBB) := by decide
theorem test_decode_csetb : decode 0x07C00000000000CC = .ok (.csetb .c3 0xCC) := by decide
theorem test_decode_csetw : decode 0x08000000000000FF = .ok (.csetw .c0 0xFF) := by decide
theorem test_decode_cgetr : decode 0x09C0000000000000 = .ok (.cgetr .c3) := by decide
theorem test_decode_cgetg : decode 0x0A80000000000000 = .ok (.cgetg .c2) := by decide
theorem test_decode_cgetb : decode 0x0BC0000000000000 = .ok (.cgetb .c3) := by decide
theorem test_decode_cgetw : decode 0x0CC0000000000000 = .ok (.cgetw .c3) := by decide
theorem test_decode_setpixc : decode 0x1020000300000000 = .ok (.setpixc 3 .c2) := by decide
theorem test_decode_setpixrgbw : decode 0x1100FFFF09080706 = .ok (.setpixrgbw 0xFFFF 9 8 7 6) := by decide
theorem test_decode_clear : decode 0x1200000000000000 = .ok .clear := by decide
theorem test_decode_show : decode 0x1300000000000000 = .ok .showStrip := by decide
theorem test_decode_destroy : decode 0x1400000000000000 = .ok .destroy := by decide
theorem test_decode_rdstat : decode 0x1500000000000000 = .ok .rdstat := by decide

theorem test_decode_unassigned :
    decode 0x0000000000000000 = .error .unassignedOpcode ∧ decode 0x0D00000000000000 = .error .unassignedOpcode ∧
    decode 0x1600000000000000 = .error .unassignedOpcode ∧ decode 0xFF00000000000000 = .error .unassignedOpcode := by
  decide

theorem test_decode_unused_nonzero :
    decode 0x1300000000000001 = .error .unusedFieldNonzero ∧ decode 0x0500000000000100 = .error .unusedFieldNonzero ∧
    decode 0x1040000000000000 = .error .unusedFieldNonzero ∧ decode 0x0401000000000000 = .error .unusedFieldNonzero ∧
    decode 0x03F0000000000000 = .error .unusedFieldNonzero ∧ decode 0x0110000001020304 = .error .unusedFieldNonzero ∧
    decode 0x11FF000000000000 = .error .unusedFieldNonzero := by
  decide

/-- The listing of 95 part 3, P1. -/
theorem test_listing :
    listingOf [".construct pin, 1, ch            ; LENGTH = 1".toList, "SETPIXRGBW 0, 0xFF, 0, 0, 0".toList, "SHOW".toList] =
      some
        { head := some (.name "pin".toList, 1, .name "ch".toList), words := [0x11000000FF000000, 0x1300000000000000] } := by
  decide

/-- The pseudo-commands of 95 §2.2 row 2 and §2.3 row 5. -/
theorem test_pseudo_words :
    assemble (.csetrgb 1 1 2 3) = some 0x0140000001020300 ∧ assemble (.setpixrgb 0 1 2 3) = some 0x1100000001020300 := by
  decide

/-- 30_encoding R71: lines of the listings of 95 part 3. -/
theorem test_assembler_text :
    assembleLine ("CSETRGBW c1, 1, 2, 3, 4          ; text").toList = some 0x0140000001020304 ∧
    assembleLine ("SETPIXRGBW 0xFFFF, 9, 9, 9, 9").toList = some 0x1100FFFF09090909 ∧
    assembleLine ("SHOW").toList = some 0x1300000000000000 ∧
    assembleLine ("show").toList = none ∧ assembleLine ("CSETR c4, 1").toList = none := by
  decide

theorem test_assembler_construct :
    parseLine (".construct pin, 3, ch            ; LENGTH = 3").toList =
      some (.construct (.name "pin".toList) 3 (.name "ch".toList)) := by
  decide

/-! ### Color commands (95 §2.2) -/

theorem test_csetrgbw :
    after (exec (.csetrgbw .c1 1 2 3 4) (withReg .c1 (col 9 9 9 9))) (getReg .c1) = some (col 1 2 3 4) := by decide
theorem test_csetcolor :
    after (exec (.csetcolor .c2 .c1) (withReg .c1 (col 1 2 3 4))) (fun t => (getReg .c2 t, getReg .c1 t)) =
      some (col 1 2 3 4, col 1 2 3 4) := by decide
theorem test_csetcolor_itself :
    after (exec (.csetcolor .c3 .c3) (withReg .c3 (col 5 6 7 8))) (getReg .c3) = some (col 5 6 7 8) := by decide
theorem test_cset32 :
    after (exec (.cset32 .c0 0x12345678) State.reset) (getReg .c0) = some (col 0x12 0x34 0x56 0x78) := by decide
theorem test_cget32 :
    after (exec (.cget32 .c0) (withReg .c0 (col 0x12 0x34 0x56 0x78))) (fun t => t.obs.responses) =
      some [0x12345678] := by decide
theorem test_csetr :
    after (exec (.csetr .c3 0xAA) State.reset) (getReg .c3) = some (col 0xAA 0 0 0) := by decide
theorem test_csetg :
    after (exec (.csetg .c3 0xBB) (withReg .c3 (col 0xAA 0 0 0))) (getReg .c3) = some (col 0xAA 0xBB 0 0) := by decide
theorem test_csetb :
    after (exec (.csetb .c3 0xCC) (withReg .c3 (col 0xAA 0xBB 0 0))) (getReg .c3) = some (col 0xAA 0xBB 0xCC 0) := by
  decide
theorem test_csetw :
    after (exec (.csetw .c0 0xFF) (withReg .c0 (col 0x12 0x34 0x56 0x78))) (getReg .c0) =
      some (col 0x12 0x34 0x56 0xFF) := by decide
theorem test_cgetr :
    after (exec (.cgetr .c3) (withReg .c3 (col 0xAA 0xBB 0xCC 0))) (fun t => t.obs.responses) = some [0x000000AA] := by
  decide
theorem test_cgetg :
    after (exec (.cgetg .c2) (withReg .c2 (col 1 2 3 4))) (fun t => t.obs.responses) = some [0x00000002] := by decide
theorem test_cgetb :
    after (exec (.cgetb .c3) (withReg .c3 (col 0xAA 0xBB 0xCC 0))) (fun t => t.obs.responses) = some [0x000000CC] := by
  decide
theorem test_cgetw :
    after (exec (.cgetw .c3) (withReg .c3 (col 0xAA 0xBB 0xCC 9))) (fun t => t.obs.responses) = some [0x00000009] := by
  decide

/-- The packed colours of 95 §2.1. -/
theorem test_pack :
    pack (col 255 0 0 0) = 0xFF000000 ∧ pack (col 0 0 0 255) = 0x000000FF ∧ pack (col 1 2 3 4) = 0x01020304 ∧
    unpack 0x00FF0000 = col 0 255 0 0 ∧ unpack 0x0000FF00 = col 0 0 255 0 ∧ unpack 0x80000001 = col 0x80 0 0 1 := by
  decide

/-! ### Pixel commands (95 §2.3) -/

/-- Row 2, and 95 §2.5 row 3: the frame in flight is not disturbed. -/
theorem test_setpixrgbw :
    after (exec (.setpixrgbw 2 9 9 9 9) State.reset) (fun t => (pixel 2 t, pixel 1 t)) =
      some (col 9 9 9 9, col 0 0 0 0) ∧
    after (exec (.setpixrgbw 0 0 0 0 0) inTx) (fun t => (pixel 0 t, t.inflight)) =
      some (col 0 0 0 0, items (z8 ++ o8 ++ z8)) := by decide
theorem test_setpixrgbw_out_of_range :
    exec (.setpixrgbw 3 9 9 9 9) (withPixels [col 1 1 1 1, col 1 1 1 1, col 1 1 1 1]) =
      .next (withPixels [col 1 1 1 1, col 1 1 1 1, col 1 1 1 1]) ∧
    exec (.setpixrgbw 0xFFFF 9 9 9 9) State.reset = .next State.reset ∧
    exec (.setpixrgbw 0 1 1 1 1) (withPixels []) = .next (withPixels []) :=
  ⟨rfl, rfl, rfl⟩
theorem test_setpixc :
    after (exec (.setpixc 1 .c2) (withReg .c2 (col 1 2 3 4))) (fun t => (pixel 1 t, getReg .c2 t)) =
      some (col 1 2 3 4, col 1 2 3 4) := by decide
theorem test_clear :
    after (exec .clear (withPixels [col 1 2 3 4, col 5 6 7 8, col 0 0 0 9]))
      (fun t => (pixel 0 t, pixel 1 t, pixel 2 t)) = some (col 0 0 0 0, col 0 0 0 0, col 0 0 0 0) := by decide

/-! ### MKWAVE (95 §2.4) -/

theorem test_mkwave_row5 :
    encodeFrame { resetConfig with length := 1 } (withPixels [col 0x12 0x34 0x56 0x78]).pix =
      items [0, 0, 1, 1, 0, 1, 0, 0, 0, 0, 0, 1, 0, 0, 1, 0, 0, 1, 0, 1, 0, 1, 1, 0] := by decide
theorem test_mkwave_row7 :
    encodeFrame { resetConfig with length := 1 } (withPixels [col 0xA5 0x80 0x01 0]).pix =
      items ([1, 0, 0, 0, 0, 0, 0, 0] ++ [1, 0, 1, 0, 0, 1, 0, 1] ++ [0, 0, 0, 0, 0, 0, 0, 1]) := by decide
theorem test_mkwave_row13 :
    encodeFrame { resetConfig with length := 2 } (withPixels [col 0 0 0 0, col 0x80 0x01 0xA5 0x3C]).pix =
      items (z8 ++ z8 ++ z8 ++ [0, 0, 0, 0, 0, 0, 0, 1] ++ [1, 0, 0, 0, 0, 0, 0, 0] ++ [1, 0, 1, 0, 0, 1, 0, 1]) := by
  decide
theorem test_mkwave_loop :
    mkwaveLoop { resetConfig with length := 1 } (withPixels [col 0 0x7F 0xFE 0]).pix [] =
      (24, cellsFrom 0 (items ([0, 1, 1, 1, 1, 1, 1, 1] ++ z8 ++ [1, 1, 1, 1, 1, 1, 1, 0]))) := by decide
/-- 95 §2.4: row 5 in words, and its 288 ticks. -/
theorem test_item_words :
    (encodePixel resetConfig (col 0x12 0x34 0x56 0x78)).take 3 |>.map itemWord |> (· = [0x00088004, 0x00088004, 0x00048008]) := by
  decide
theorem test_frame_ticks :
    frameTicks (encodePixel resetConfig (col 0x12 0x34 0x56 0x78)) = 288 := by decide

/-! ### SHOW and the state machine (95 §2.5) -/

theorem test_show :
    after (exec .showStrip redStrip) (fun t => (t.ph, t.busy, t.inflight, t.obs.diag)) =
      some (.tx, true, items (z8 ++ o8 ++ z8), [.frameBits 24]) := by decide
theorem test_show_waits :
    after (exec .showStrip inTx) (fun t => (t.ph, t.busy, t.wave)) = some (.wait, true, inTx.wave) := by decide
theorem test_completion :
    (peripheralTurn { inTx with emitPos := 48, line := 1 }).ph = .idle ∧
    (peripheralTurn { inTx with emitPos := 48, line := 1 }).busy = false ∧
    (peripheralTurn { inTx with emitPos := 48, line := 1 }).line = 0 ∧
    (peripheralTurn { waiting with emitPos := 48 }).ph = .wait ∧
    (peripheralTurn { inTx with emitPos := 17 }).obs.phases = [{ level := 0, duration := 4 }] ∧
    (peripheralTurn { inTx with emitPos := 47 }).busy = true := by
  decide
theorem test_wait_ends :
    after (blockTurn { waiting with busy := false, inflight := [], pix := [] }) (fun t => (t.ph, t.inflight)) =
      some (.tx, items (z8 ++ z8 ++ z8)) := by decide
theorem test_show_fault :
    exec .showStrip { redStrip with env := { redStrip.env with txAnswers := [.err] } } = .fault .transmitError := by
  rfl

/-! ### DESTROY, RDSTAT, construction (95 §2.6) -/

theorem test_rdstat_idle : after (exec .rdstat State.reset) (fun t => t.obs.responses) = some [0] := by decide
theorem test_rdstat_tx : after (exec .rdstat inTx) (fun t => t.obs.responses) = some [0x30] := by decide
theorem test_construct_both_fail :
    (construct { oneArgs with allocPixOk := false, allocWaveOk := false, cfgResult := .err, installResult := .err } dead).obs.diag =
      [.allocFail .pixels, .allocFail .waveform, .cfgErr, .installErr] ∧
    statusWord
      (construct { oneArgs with allocPixOk := false, allocWaveOk := false, cfgResult := .err, installResult := .err } dead).ph
      (construct { oneArgs with allocPixOk := false, allocWaveOk := false, cfgResult := .err, installResult := .err } dead).status =
      0x00000007 := by
  decide
theorem test_destroy :
    after (exec .destroy State.reset) (fun t => t.live) = some false ∧ exec .destroy inTx = .refused .destroyInFlight :=
  ⟨rfl, rfl⟩
theorem test_setup_failed_show_refused :
    exec .showStrip (construct { oneArgs with cfgResult := .err } dead) = .refused .peripheralNotReady := by rfl
theorem test_alloc_failed_pixel_refused :
    exec (.setpixrgbw 0 1 1 1 1) (construct { oneArgs with allocWaveOk := false } dead) = .refused .allocFailed := by rfl

/-! ### The port and the host's hooks -/

theorem test_port_order :
    after (step (fed [0x1100000009090909, 0x1200000000000000] State.reset))
      (fun t => (pixel 0 t, t.env.port)) = some (col 9 9 9 9, [.command 0x1200000000000000]) := by decide
theorem test_table_word : decodeTableWord 64 0x0140000001020304 = some (.csetrgbw .c1 1 2 3 4) := by decide
theorem test_fetch_word :
    after (step (State.reset.withFetchWord 64 0x05C00000000000AA)) (getReg .c3) = some (col 0xAA 0 0 0) := by decide

/-! ### Witnesses: for each obligation with hypotheses, one state and operands that meet all of them, clause by clause -/

theorem inTx_inv : Inv inTx :=
  ⟨by decide, by decide, by decide, by decide, by decide, by decide, by decide, by decide, by decide⟩

theorem waiting_inv : Inv waiting :=
  ⟨by decide, by decide, by decide, by decide, by decide, by decide, by decide, by decide, by decide⟩

theorem witness_ResetStateValues : 0 < State.reset.cfg.length ∧ 2 < State.reset.cfg.length := by decide

theorem witness_StepKeepsInvariant :
    (∃ t, Inv inTx ∧ step inTx = .next t) ∧ (∃ t, Inv waiting ∧ step waiting = .next t) :=
  ⟨⟨_, inTx_inv, rfl⟩, ⟨_, waiting_inv, rfl⟩⟩

theorem witness_StepRunsDecodedCommand :
    (turnOf (fed [0x1200000000000000] inTx) = .block ∧ PortIsFree (fed [0x1200000000000000] inTx) ∧
      (fed [0x1200000000000000] inTx).env.port = .command 0x1200000000000000 :: [] ∧
      decode 0x1200000000000000 = .ok .clear) ∧
    (let s := { dead with env := { dead.env with port := [.construct oneArgs], sched := [.block] } }
     turnOf s = .block ∧ PortIsFree s ∧ s.env.port = .construct oneArgs :: []) ∧
    (turnOf { State.reset with env := { State.reset.env with sched := [.block] } } = .block ∧ PortIsFree State.reset ∧
      State.reset.env.port = []) ∧
    turnOf State.reset = .peripheral := by
  decide

theorem witness_PresentedWordRunsNext :
    PortIsFree inTx ∧ decodeTableWord 64 0x1500000000000000 = some .rdstat := by decide

theorem witness_DecodedWordIsItsEncoding :
    decode 0x02F0000000000000 = .ok (.csetcolor .c3 .c3) ∧ decode 0x1200000000000000 = .ok .clear := by decide

theorem witness_DecodeFollowsMatchAndMask :
    (0x0100000000000000, 0xFF3FFFFF00000000) ∈ opcodeRows ∧
    (0x01C00000FFFFFFFF : CmdWord) &&& 0xFF3FFFFF00000000 = 0x0100000000000000 := by decide

theorem witness_IllegalWordRefused :
    (∀ row ∈ opcodeRows, (0x1300000000000001 : CmdWord) &&& row.2 ≠ row.1) ∧
    (turnOf (fed [0x1300000000000001] inTx) = .block ∧ PortIsFree (fed [0x1300000000000001] inTx) ∧
      (fed [0x1300000000000001] inTx).env.port = .command 0x1300000000000001 :: [] ∧
      decode 0x1300000000000001 = .error .unusedFieldNonzero) :=
  ⟨by simp [opcodeRows], by decide⟩

theorem witness_AssembledWordDecodes_digits :
    (∀ c ∈ ['0', '9'], c ∈ decimalDigits) ∧ valueIn decimalDigits ['4', '2'] = 42 ∧
    (∀ c ∈ ['8', '0', 'A', 'F'], c ∈ hexDigits) ∧ valueIn hexDigits ['1', 'A', 'F'] = 0x1AF ∧
    (∀ c ∈ ['0', 'A', 'f'], c ∈ hexDigits ++ lowerHexDigits) :=
  ⟨by simp [decimalDigits], rfl, by simp [hexDigits, decimalDigits], rfl,
    by simp [hexDigits, decimalDigits, lowerHexDigits]⟩

theorem witness_AssembledWordDecodes :
    ((Asm.csetrgbw 3 255 255 255 255).wellFormed = true ∧ (Asm.csetrgbw 4 0 0 0 0).wellFormed = false) ∧
    (isWord "SHOW".toList = true ∧ "SHOW".toList ≠ ".construct".toList) ∧
    (number "0xFFFF".toList = some 65535 ∧ number "0".toList = some 0 ∧ 3 < 4) ∧
    (isWord "CSETR".toList = true ∧ (∀ x ∈ ["c3".toList, "0xAA".toList], isWord x = true) ∧
      "CSETR".toList ≠ ".construct".toList) ∧
    (isWord "pin".toList = true ∧ operand "pin".toList = some (.name "pin".toList) ∧ operand "3".toList = some (.num 3) ∧
      operand "ch".toList = some (.name "ch".toList)) ∧
    (parseLine "CSETR c3, 0xAA".toList = some (.command (.csetr 3 0xAA)) ∧
      assemble (.csetr 3 0xAA) = some 0x05C00000000000AA ∧ commandsOf ["SHOW".toList] = some [0x1300000000000000]) ∧
    parseLine "; nothing".toList = some .blank ∧
    parseLine ".construct pin, 3, ch".toList = some (.construct (.name "pin".toList) 3 (.name "ch".toList)) := by
  decide

theorem witness_CsetrgbwOverwritesAllChannels : ColorAccepted State.reset ∧ ColorAccepted inTx ∧ CReg.c0 ≠ .c1 := by
  decide
theorem witness_CsetcolorCopiesRegister :
    ColorAccepted State.reset ∧ ColorAccepted inTx ∧ CReg.c0 ≠ .c1 ∧ CReg.c3 = .c3 := by decide
theorem witness_Cset32Unpacks : ColorAccepted State.reset ∧ ColorAccepted inTx ∧ CReg.c0 ≠ .c1 := by decide
theorem witness_Cget32RespondsPackedColour : ColorAccepted State.reset ∧ ColorAccepted inTx := by decide
theorem witness_ChannelSettersWriteOneChannel :
    ColorAccepted State.reset ∧ ColorAccepted inTx ∧ CReg.c0 ≠ .c1 ∧
    ((0x08 : BitVec 8), Instr.csetw .c0 255) ∈
      [((0x05 : BitVec 8), Instr.csetr .c0 255), (0x06, .csetg .c0 255), (0x07, .csetb .c0 255), (0x08, .csetw .c0 255)] := by
  decide
theorem witness_ChannelGettersRespondZeroExtended :
    ColorAccepted State.reset ∧ ColorAccepted inTx ∧
    ((0x0C : BitVec 8), Instr.cgetw .c0) ∈
      [((0x09 : BitVec 8), Instr.cgetr .c0), (0x0A, .cgetg .c0), (0x0B, .cgetb .c0), (0x0C, .cgetw .c0)] := by
  decide
theorem witness_ColorRoundTripLaws : ColorAccepted State.reset ∧ ColorAccepted inTx := by decide
theorem witness_ColorCommandsFrame :
    (∃ t, classOf (.csetr .c1 7) = .color ∧ exec (.csetr .c1 7) State.reset = .next t ∧ destReg (.csetr .c1 7) ≠ some .c0) ∧
    (∃ t, classOf (.cget32 .c1) = .color ∧ exec (.cget32 .c1) inTx = .next t ∧ destReg (.cget32 .c1) ≠ some .c1) :=
  ⟨⟨_, rfl, rfl, by decide⟩, ⟨_, rfl, rfl, by decide⟩⟩
theorem witness_ColorCommandAcceptance :
    classOf (.cgetr .c0) = .color ∧ dead.live = false ∧
    (let s := { State.reset with status := { State.reset.status with allocFail := true } }
     s.live = true ∧ PortIsFree s ∧ s.status.allocFail = true) := by
  decide

theorem witness_SetpixcWritesOnePixel :
    classOf (.cset32 .c0 0) = .color ∧ PixelAccepted State.reset ∧ PixelAccepted inTx ∧ (2 : PixIdx).toNat < State.reset.cfg.length ∧ 1 ≠ (2 : PixIdx).toNat ∧
    State.reset.cfg.length ≤ (3 : PixIdx).toNat ∧ State.reset.cfg.length ≤ (0xFFFF : PixIdx).toNat := by
  decide
theorem witness_SetpixrgbwWritesOnePixel :
    PixelAccepted State.reset ∧ PixelAccepted inTx ∧ (2 : PixIdx).toNat < State.reset.cfg.length ∧ 1 ≠ (2 : PixIdx).toNat ∧
    State.reset.cfg.length ≤ (3 : PixIdx).toNat ∧ State.reset.cfg.length ≤ (0xFFFF : PixIdx).toNat := by
  decide
theorem witness_OutOfRangeIndexChangesNothing :
    (PixelAccepted State.reset ∧ State.reset.cfg.length ≤ (3 : PixIdx).toNat) ∧
    (PixelAccepted (withPixels []) ∧ (withPixels []).cfg.length ≤ (0 : PixIdx).toNat) := by
  decide
theorem witness_ClearBlackensEveryPixel :
    PixelAccepted redStrip ∧ 0 < redStrip.cfg.length ∧ redStrip.cfg.length ≤ 1 ∧ (withPixels []).cfg.length = 0 := by
  decide
theorem witness_ClearIsIdempotent : ∃ t, exec .clear redStrip = .next t ∧ Memory.wf redStrip = true :=
  ⟨_, rfl, by decide⟩
theorem witness_PixelCommandsFrame :
    (∃ t, exec (.setpixc 2 .c0) State.reset = .next t ∧
      (idxInRange 2 State.reset.cfg.length = true → 1 ≠ (2 : PixIdx).toNat)) ∧
    (∃ t, exec (.setpixc 3 .c0) State.reset = .next t ∧
      (idxInRange 3 State.reset.cfg.length = true → 3 ≠ (3 : PixIdx).toNat)) ∧
    (∃ t, exec (.setpixrgbw 2 1 2 3 4) State.reset = .next t ∧
      (idxInRange 2 State.reset.cfg.length = true → 1 ≠ (2 : PixIdx).toNat)) ∧
    (∃ t, exec .clear redStrip = .next t ∧ redStrip.cfg.length ≤ 1 ∧ classOf .clear = .pixel) :=
  ⟨⟨_, rfl, by decide⟩, ⟨_, rfl, by decide⟩, ⟨_, rfl, by decide⟩, ⟨_, rfl, by decide⟩⟩

theorem witness_AcceptanceTable :
    AcceptedAs (classOf .clear) State.reset ∧ Instr.clear ≠ .showStrip ∧ ¬AcceptedAs (classOf .destroy) inTx :=
  ⟨⟨rfl, rfl, .inl rfl⟩, by decide, fun h => nomatch h.2⟩
theorem witness_ResponsesExactlyFromGetters :
    (∃ t, exec .rdstat inTx = .next t ∧ answers .rdstat = true) ∧
    (∃ t, exec (.cgetw .c3) State.reset = .next t ∧ answers (.cgetw .c3) = true) ∧
    (∃ t, exec .clear State.reset = .next t ∧ answers .clear = false) :=
  ⟨⟨_, rfl, rfl⟩, ⟨_, rfl, rfl⟩, ⟨_, rfl, rfl⟩⟩
theorem witness_FlagsAndConfigChangeAtConstructionOnly :
    ∃ t, step { dead with env := { dead.env with port := [.construct { oneArgs with cfgResult := .err }] } } = .next t ∧
      (t.status ≠ dead.status ∨ t.cfg ≠ dead.cfg) :=
  ⟨_, rfl, .inl (by decide)⟩
theorem witness_OnlyShowTouchesPeripheral :
    (∃ t, exec .destroy State.reset = .next t ∧ Instr.destroy ≠ .showStrip) ∧
    (∃ t, exec .clear inTx = .next t ∧ Instr.clear ≠ .showStrip) :=
  ⟨⟨_, rfl, by decide⟩, ⟨_, rfl, by decide⟩⟩

theorem witness_LineCodeItems :
    resetConfig.wellFormed = true ∧ resetConfig.t0h = 4 ∧ resetConfig.t0l = 8 ∧ resetConfig.t1h = 8 ∧ resetConfig.t1l = 4 := by
  decide
theorem witness_MkwaveMatchesLoops :
    waveWf (nitems State.reset.cfg) State.reset.wave = true ∧ waveWf (nitems inTx.cfg) inTx.wave = true := by decide
theorem witness_WaveformClosedForm :
    (2 < State.reset.cfg.length ∧ 2 < 3 ∧ 7 < 8) ∧
    (redStrip.cfg.length = inTx.cfg.length ∧ zeroItem redStrip.cfg = zeroItem inTx.cfg ∧
      oneItem redStrip.cfg = oneItem inTx.cfg ∧ ∀ p, p < redStrip.cfg.length → pixel p redStrip = pixel p inTx) :=
  ⟨by decide, by decide, by decide, by decide, fun _ _ => rfl⟩
theorem witness_FrameBitOrder :
    (0 < State.reset.cfg.length ∧ 23 < 24) ∧ redStrip.cfg.length * 24 ≤ 24 ∧ (withPixels []).cfg.length = 0 := by decide
theorem witness_WaveformLength :
    (∃ t, exec .showStrip redStrip = .next t ∧ redStrip.busy = false) ∧
    (∃ t, exec .showStrip (withPixels []) = .next t ∧ (withPixels []).busy = false) :=
  ⟨⟨_, rfl, rfl⟩, ⟨_, rfl, rfl⟩⟩
theorem witness_WaveHoldsLineItemsOnly :
    redStrip.cfg.wellFormed = true ∧ (0 < redStrip.cfg.length ∧ 2 < 3 ∧ 7 < 8) ∧
    (∃ t, exec .clear redStrip = .next t) ∧ (∃ it, waveItem 23 (mkwave redStrip) = some it) ∧
    (∃ t, exec .showStrip redStrip = .next t ∧ redStrip.busy = false ∧ waveItem 8 t = some (oneItem redStrip.cfg)) :=
  ⟨by decide, by decide, ⟨_, rfl⟩, ⟨_, rfl⟩, ⟨_, rfl, rfl, by decide⟩⟩
theorem witness_WhiteInvariance :
    (redStrip.cfg = (withPixels [col 255 0 0 9]).cfg ∧ (pixel 0 redStrip).red = (pixel 0 (withPixels [col 255 0 0 9])).red ∧
      (pixel 0 redStrip).green = (pixel 0 (withPixels [col 255 0 0 9])).green ∧
      (pixel 0 redStrip).blue = (pixel 0 (withPixels [col 255 0 0 9])).blue ∧ redStrip.cfg.length = 1) ∧
    (∃ t u, (0 : PixIdx).toNat < redStrip.cfg.length ∧ exec .clear redStrip = .next t ∧
      exec (.setpixrgbw 0 0 0 0 9) t = .next u) ∧
    (∃ t, exec (.csetw .c2 9) redStrip = .next t) :=
  ⟨by decide, ⟨_, _, by decide, rfl, rfl⟩, ⟨_, rfl⟩⟩
theorem witness_FrameDurationFormula :
    redStrip.cfg.wellFormed = true ∧
    8 = (encodeFrame redStrip.cfg redStrip.pix).countP (fun it => decide (it = oneItem redStrip.cfg)) := by decide
theorem witness_PixelWriteReachesNextFrame :
    ∃ t u, (0 : PixIdx).toNat < redStrip.cfg.length ∧ 7 < 8 ∧ exec (.setpixrgbw 0 1 2 3 4) redStrip = .next t ∧
      redStrip.busy = false ∧ exec .showStrip t = .next u :=
  ⟨_, _, by decide, by decide, rfl, rfl, rfl⟩

theorem witness_ShowCompletesWhenPeripheralIdle :
    ShowAccepted redStrip ∧ redStrip.busy = false ∧ PeripheralAnswersOk redStrip ∧
    ShowAccepted (withPixels []) ∧ PeripheralAnswersOk (withPixels []) := by decide
theorem witness_ShowWaitsWhileBusy :
    (ShowAccepted inTx ∧ inTx.busy = true ∧ inTx.cfg.waitTimeout = .forever ∧ waitTimesOut inTx = false) ∧
    (let s := { inTx with cfg := { inTx.cfg with waitTimeout := .finite 5 } }
     ShowAccepted s ∧ s.busy = true ∧ waitTimesOut s = false) ∧
    (let s := { inTx with cfg := { inTx.cfg with waitTimeout := .finite 5 }, env := { inTx.env with waitAnswers := [.err] } }
     ShowAccepted s ∧ s.busy = true ∧ s.cfg.waitTimeout = .finite 5 ∧ s.env.waitAnswers = .err :: []) := by decide
theorem witness_PeripheralErrorInShowFaults :
    (let s := { redStrip with env := { redStrip.env with waitAnswers := [.err] } }
     ShowAccepted s ∧ s.busy = false ∧ s.env.waitAnswers = .err :: []) ∧
    (let s := { redStrip with env := { redStrip.env with txAnswers := [.err] } }
     ShowAccepted s ∧ s.busy = false ∧ nextAnswer s.env.waitAnswers = .ok ∧ s.env.txAnswers = .err :: [] ∧
       (s.cfg.length ≠ 0 ∨ s.cfg.zeroCountTxOk = true)) ∧
    (let s := { waiting with busy := false, env := { waiting.env with waitAnswers := [.err] } }
     s.ph = .wait ∧ s.busy = false ∧ s.env.waitAnswers = .err :: []) ∧
    (let s := { waiting with busy := false, env := { waiting.env with txAnswers := [.err] } }
     s.ph = .wait ∧ s.busy = false ∧ nextAnswer s.env.waitAnswers = .ok ∧ s.env.txAnswers = .err :: [] ∧
       (s.cfg.length ≠ 0 ∨ s.cfg.zeroCountTxOk = true)) := by decide
theorem witness_ShowOfEmptyStrip :
    (let s := withPixels []
     ShowAccepted s ∧ s.busy = false ∧ s.cfg.length = 0 ∧ s.line = 0 ∧ nextAnswer s.env.waitAnswers = .ok ∧
       nextAnswer s.env.txAnswers = .ok ∧ s.cfg.zeroCountTxOk = true) ∧
    (let s := { State.reset with cfg := { resetConfig with length := 0, zeroCountTxOk := false } }
     ShowAccepted s ∧ s.busy = false ∧ s.cfg.length = 0 ∧ s.line = 0 ∧ nextAnswer s.env.waitAnswers = .ok ∧
       nextAnswer s.env.txAnswers = .ok ∧ s.cfg.zeroCountTxOk = false) := by decide
theorem witness_ShowFrame :
    (∃ t, exec .showStrip redStrip = .next t) ∧ (∃ t, exec .showStrip inTx = .next t) := ⟨⟨_, rfl⟩, ⟨_, rfl⟩⟩
theorem witness_CompletionEvent :
    (inTx.busy = true ∧ inTx.emitPos < 2 * inTx.inflight.length) ∧
    (let s := { inTx with emitPos := 48 }
     s.busy = true ∧ 2 * s.inflight.length ≤ s.emitPos) := by decide
theorem witness_PeripheralEmitsWholeFrame :
    inTx.busy = true ∧ inTx.emitPos = 0 ∧ 48 ≤ 2 * inTx.inflight.length ∧ 0 < 48 := by decide
theorem witness_WaitingShowCompletes :
    (let s := { waiting with busy := false }
     s.ph = .wait ∧ s.busy = false ∧ PeripheralAnswersOk s) ∧
    turnOf { waiting with env := { waiting.env with sched := [.block] } } = .block ∧
    (let s := { waiting with emitPos := 47, env := { waiting.env with sched := [.block, .peripheral, .block, .peripheral, .block] } }
     Inv s ∧ s.ph = .wait ∧ s.busy = true ∧ PeripheralAnswersOk s ∧
       s.env.sched = [.block, .peripheral, .block] ++ .peripheral :: .block :: [] ∧
       [Agent.block, .peripheral, .block].count .peripheral = 2 * s.inflight.length - s.emitPos) ∧
    (Inv waiting ∧ waiting.ph = .wait ∧ waiting.busy = true ∧ PeripheralAnswersOk waiting ∧ waiting.env.sched = []) :=
  ⟨by decide, by decide,
   ⟨⟨by decide, by decide, by decide, by decide, by decide, by decide, by decide, by decide, by decide⟩, by decide⟩,
   waiting_inv, by decide⟩
theorem witness_WaitingShowHangs :
    let s := { waiting with env := { waiting.env with sched := [.block, .block, .peripheral] } }
    s.ph = .wait ∧ s.busy = true ∧ s.cfg.waitTimeout = .forever ∧
      s.env.sched = List.replicate 2 .block ++ [.peripheral] := by decide
theorem witness_PhaseTransitions :
    (∃ t, Inv inTx ∧ step inTx = .next t ∧ inTx.ph = .tx) ∧
    (∃ t, Inv waiting ∧ step waiting = .next t ∧ waiting.ph = .wait) ∧
    (∃ t, Inv (peripheralTurn redStrip) ∧ step (peripheralTurn redStrip) = .next t ∧ (peripheralTurn redStrip).ph = .idle) ∧
    (∃ s t, Inv s ∧ step s = .next t ∧ s.ph = .enc) :=
  ⟨⟨_, inTx_inv, rfl, rfl⟩, ⟨_, waiting_inv, rfl, rfl⟩,
   ⟨_, ⟨by decide, by decide, by decide, by decide, by decide, by decide, by decide, by decide, by decide⟩, rfl, rfl⟩,
   ⟨{ redStrip with ph := .enc }, _,
    ⟨by decide, by decide, by decide, by decide, by decide, by decide, by decide, by decide, by decide⟩, rfl, rfl⟩⟩
theorem witness_FrameInFlightIsProtected :
    ∃ t, Inv inTx ∧ PeripheralReady inTx ∧ inTx.busy = true ∧ step inTx = .next t :=
  ⟨_, inTx_inv, by decide, rfl, rfl⟩
theorem witness_PeripheralEventCommutesWithCommands :
    (∃ t, classOf (.csetr .c1 7) = .color ∧ exec (.csetr .c1 7) inTx = .next t) ∧
    (∃ t, classOf .clear = .pixel ∧ exec .clear { inTx with emitPos := 48 } = .next t) :=
  ⟨⟨_, rfl, rfl⟩, ⟨_, rfl, rfl⟩⟩

theorem witness_DestroyEndsInstance :
    (State.reset.live = true ∧ State.reset.ph = .idle) ∧ (inTx.live = true ∧ inTx.ph = .tx) := by decide
theorem witness_RdstatRespondsStatusWord :
    (State.reset.live = true ∧ PortIsFree State.reset ∧ State.reset.ph = .idle) ∧
    (inTx.live = true ∧ PortIsFree inTx ∧ inTx.ph = .tx) := by decide
theorem witness_CleanConstructionState :
    dead.live = false ∧ oneArgs.cfg.wellFormed = true ∧ oneArgs.allocPixOk = true ∧ oneArgs.allocWaveOk = true ∧
    oneArgs.cfgResult = .ok ∧ oneArgs.installResult = .ok ∧ 0 < oneArgs.cfg.length := by decide
theorem witness_FailedSetupLeavesPixelsUsable :
    (let a := { oneArgs with cfgResult := .err }
     a.allocPixOk = true ∧ a.allocWaveOk = true ∧ (a.cfgResult = .err ∨ a.installResult = .err)) ∧
    (let a := { oneArgs with installResult := .err }
     a.allocPixOk = true ∧ a.allocWaveOk = true ∧ (a.cfgResult = .err ∨ a.installResult = .err)) := by decide
theorem witness_ConstructionFlagsIndependent :
    (dead.live = false ∧ { oneArgs with allocPixOk := false, installResult := .err }.cfg.wellFormed = true) ∧
    { oneArgs with cfg := { oneArgs.cfg with t0h := 0 } }.cfg.wellFormed = false := by decide
theorem witness_ReconstructionForgetsOldInstance :
    (dead.live = false ∧ { inTx with live := false }.live = false ∧ oneArgs.cfg.wellFormed = true ∧
      oneArgs.allocPixOk = true ∧ oneArgs.allocWaveOk = true ∧ oneArgs.cfgResult = .ok ∧ oneArgs.installResult = .ok) ∧
    State.reset.live = true := by decide
theorem witness_DestroyAndRdstatFrame :
    (∃ t, exec .destroy State.reset = .next t) ∧ (∃ t, exec .rdstat inTx = .next t) := ⟨⟨_, rfl⟩, ⟨_, rfl⟩⟩

end Sys2Proof.Tests
end

section
/-! What reset and a clean construction leave in the state (10_state R26). -/

namespace Sys2Proof.Machine

/-- Every Color register reads the default Color when the register file holds nothing else (10_state R12). -/
theorem getReg_eq_black {s : State} (h : s.cr = { c0 := black, c1 := black, c2 := black, c3 := black }) (r : CReg) :
    getReg r s = black := by
  rw [getReg, h]
  cases r <;> rfl

/-- Every pixel reads the default Color when PIX lists no entry (10_state R13). -/
theorem pixel_eq_black {s : State} (h : s.pix = []) (i : Nat) : pixel i s = black := by
  rw [pixel, h]
  rfl

theorem allocFailed_eq_false {a : ConstructArgs} (hp : a.allocPixOk = true) (hw : a.allocWaveOk = true) :
    ConstructArgs.allocFailed a = false := by
  simp [ConstructArgs.allocFailed, hp, hw]

theorem setupFailed_eq_false {a : ConstructArgs} (hc : a.cfgResult = .ok) (hi : a.installResult = .ok) :
    ConstructArgs.setupFailed a = false := by
  simp [ConstructArgs.setupFailed, hc, hi]

/-- Settles O1: the registers and PIX of `State.reset` hold the default Color only, and the other fields are the literals
R26 names. -/
theorem resetStateValues : Obligations.ResetStateValues :=
  ⟨getReg_eq_black rfl, fun i _ => pixel_eq_black rfl i, rfl, rfl, rfl, rfl, rfl, rfl, rfl⟩

/-- Settles O56: with nothing failed, each field that `construct` leaves is the one R26 names. -/
theorem cleanConstructionState : Obligations.CleanConstructionState := by
  intro a s hlive hwf hp hw hc hi
  have halloc := allocFailed_eq_false hp hw
  have hsetup := setupFailed_eq_false hc hi
  refine ⟨construct a s, hostConstruct_next.mpr ⟨hlive, hwf, rfl⟩, getReg_eq_black ?cr,
    fun i _ => pixel_eq_black ?pix i, construct_ph a s, ?status, construct_live a s, ?busy, ?inflight, ?line, ?diag,
    construct_cfg a s, ?calls⟩
  case cr => simp [construct_cr, halloc]
  case pix => simp [construct_pix, halloc]
  case status => simp [construct_status, halloc, hc, hi]
  case busy => simp [construct_busy, hsetup]
  case inflight => simp [construct_inflight, hsetup]
  case line => simp [construct_line, hsetup]
  case diag => simp [construct_diag, hp, hw, hc, hi]
  case calls => simp [construct_calls]

end Sys2Proof.Machine
end

section
/-! A word and the command it decodes to: a word that decodes is the word of its command and lies in its command's row
(30_encoding R65 to R67). -/

namespace Sys2Proof

/-- A word is its four bytes put together (30_encoding R61, R66). -/
theorem append_bytes (x : Word) :
    x.extractLsb' 24 8 ++ x.extractLsb' 16 8 ++ x.extractLsb' 8 8 ++ x.extractLsb' 0 8 = x := by
  ext i hi
  grind

@[simp] theorem immRgbw_imm (f : Fields) : immRgbw f.immR f.immG f.immB f.immW = f.imm :=
  append_bytes f.imm

theorem immByte_low {x : Word} (h : x.extractLsb' 8 24 = 0) : immByte (x.extractLsb' 0 8) = x := by
  rw [immByte, ← h]
  ext i hi
  grind

/-! Fields that are zero where a row of R67 does not use them are the fields of that row's format. -/

section Format

variable {f : Fields} {op : BitVec 8}

theorem fieldsC_of_zeroImm (ho : f.op = op) (h : f.zeroImm = true) : fieldsC op f.cd 0 f.imm = f := by
  cases f
  simp_all [Fields.zeroImm, Fields.zeroC, fieldsC]

theorem fieldsC_of_zeroTwoReg (ho : f.op = op) (h : f.zeroTwoReg = true) : fieldsC op f.cd f.cs 0 = f := by
  cases f
  simp_all [Fields.zeroTwoReg, Fields.zeroC, fieldsC]

theorem fieldsC_of_zeroReg (ho : f.op = op) (h : f.zeroReg = true) : fieldsC op f.cd 0 0 = f := by
  cases f
  simp_all [Fields.zeroReg, Fields.zeroC, fieldsC]

theorem fieldsC_of_zeroByte (ho : f.op = op) (h : f.zeroByte = true) : fieldsC op f.cd 0 (immByte f.immW) = f := by
  simp only [Fields.zeroByte, Bool.and_eq_true, beq_iff_eq] at h
  obtain ⟨⟨hzero, hcs⟩, himm⟩ := h
  rw [Fields.immW, immByte_low himm]
  exact fieldsC_of_zeroImm ho (by simp [Fields.zeroImm, hzero, hcs])

theorem fieldsP_of_zeroPixReg (ho : f.op = op) (h : f.zeroPixReg = true) : fieldsP op f.cs f.idx 0 = f := by
  cases f
  simp_all [Fields.zeroPixReg, fieldsP]

theorem fieldsP_of_zeroPixImm (ho : f.op = op) (h : f.zeroPixImm = true) : fieldsP op 0 f.idx f.imm = f := by
  cases f
  simp_all [Fields.zeroPixImm, fieldsP]

theorem fieldsN_of_zeroN (ho : f.op = op) (h : f.zeroN = true) : fieldsN op = f := by
  cases f
  simp_all [Fields.zeroN, fieldsN]

end Format

/-- Fields that decode are the fields of the command they decode to. -/
theorem encodeFields_of_decodeFields {f : Fields} {i : Instr} (h : decodeFields f = .ok i) : encodeFields i = f := by
  rcases decodeFields_cases h with ⟨ho, hz, rfl⟩ | ⟨ho, hz, rfl⟩ | ⟨ho, hz, rfl⟩ | ⟨ho, hz, rfl⟩ | ⟨ho, hz, rfl⟩ |
    ⟨ho, hz, rfl⟩ | ⟨ho, hz, rfl⟩ | ⟨ho, hz, rfl⟩ | ⟨ho, hz, rfl⟩ | ⟨ho, hz, rfl⟩ | ⟨ho, hz, rfl⟩ | ⟨ho, hz, rfl⟩ |
    ⟨ho, hz, rfl⟩ | ⟨ho, hz, rfl⟩ | ⟨ho, hz, rfl⟩ | ⟨ho, hz, rfl⟩ | ⟨ho, hz, rfl⟩ | ⟨ho, hz, rfl⟩ <;>
    simp only [encodeFields, cregCode_cregOf, immRgbw_imm]
  · exact fieldsC_of_zeroImm ho hz
  · exact fieldsC_of_zeroTwoReg ho hz
  · exact fieldsC_of_zeroImm ho hz
  · exact fieldsC_of_zeroReg ho hz
  · exact fieldsC_of_zeroByte ho hz
  · exact fieldsC_of_zeroByte ho hz
  · exact fieldsC_of_zeroByte ho hz
  · exact fieldsC_of_zeroByte ho hz
  · exact fieldsC_of_zeroReg ho hz
  · exact fieldsC_of_zeroReg ho hz
  · exact fieldsC_of_zeroReg ho hz
  · exact fieldsC_of_zeroReg ho hz
  · exact fieldsP_of_zeroPixReg ho hz
  · exact fieldsP_of_zeroPixImm ho hz
  · exact fieldsN_of_zeroN ho hz
  · exact fieldsN_of_zeroN ho hz
  · exact fieldsN_of_zeroN ho hz
  · exact fieldsN_of_zeroN ho hz

theorem encode_of_decode {w : CmdWord} {i : Instr} (h : decode w = .ok i) : encode i = w := by
  rw [encode, encodeFields_of_decodeFields h, wordOf_fieldsOf]

/-- The word of every command lies in the command's row (R67). -/
theorem encode_and_rowMask (i : Instr) : encode i &&& rowMask i = rowMatch i := by
  cases i with
  | csetrgbw cd r g b w => exact Laws.Row.csetrgbw cd r g b w
  | csetcolor cd cs => exact Laws.Row.csetcolor cd cs
  | cset32 cd packed => exact Laws.Row.cset32 cd packed
  | cget32 cd => exact Laws.Row.cget32 cd
  | csetr cd v => exact Laws.Row.csetr cd v
  | csetg cd v => exact Laws.Row.csetg cd v
  | csetb cd v => exact Laws.Row.csetb cd v
  | csetw cd v => exact Laws.Row.csetw cd v
  | cgetr cd => exact Laws.Row.cgetr cd
  | cgetg cd => exact Laws.Row.cgetg cd
  | cgetb cd => exact Laws.Row.cgetb cd
  | cgetw cd => exact Laws.Row.cgetw cd
  | setpixc idx cs => exact Laws.Row.setpixc idx cs
  | setpixrgbw idx r g b w => exact Laws.Row.setpixrgbw idx r g b w
  | clear => exact Laws.Row.clear
  | showStrip => exact Laws.Row.showStrip
  | destroy => exact Laws.Row.destroy
  | rdstat => exact Laws.Row.rdstat

theorem row_mem_opcodeRows (i : Instr) : (rowMatch i, rowMask i) ∈ opcodeRows := by
  cases i <;> simp [rowMatch, rowMask, opcodeRows]

/-- A word that decodes matches the row of its command (R67). -/
theorem and_rowMask_of_decode {w : CmdWord} {i : Instr} (h : decode w = .ok i) : w &&& rowMask i = rowMatch i :=
  encode_of_decode h ▸ encode_and_rowMask i

end Sys2Proof
end

section
/-! Illegal words (30_encoding R68): when the decoder rejects a word, for which of its two reasons, and what the port
answers. -/

namespace Sys2Proof

/-- A word that matches no row is rejected by the decoder. -/
theorem decode_error_of_no_row {w : CmdWord} (h : ∀ row ∈ opcodeRows, w &&& row.2 ≠ row.1) :
    ∃ e, decode w = .error e := by
  cases hd : decode w with
  | error e => exact ⟨e, rfl⟩
  | ok i => exact absurd (and_rowMask_of_decode hd) (h _ (row_mem_opcodeRows i))

/-- A row of the decoder never answers that the opcode is unassigned: such an answer comes from the rows below it. -/
theorem ite_row_unassigned {c : Prop} [Decidable c] {zero : Bool} {i : Instr} {rest : Except DecodeError Instr} :
    (if c then ifUnusedZero zero i else rest) = .error .unassignedOpcode ↔ ¬c ∧ rest = .error .unassignedOpcode := by
  by_cases hc : c
  · cases zero <;> simp [hc, ifUnusedZero]
  · simp [hc]

/-- The opcodes the decoder calls unassigned are those outside the table's two ranges (R67). -/
theorem decodeFields_unassigned_iff {f : Fields} :
    decodeFields f = .error .unassignedOpcode ↔
      ¬((1 ≤ f.op.toNat ∧ f.op.toNat ≤ 0x0C) ∨ (0x10 ≤ f.op.toNat ∧ f.op.toNat ≤ 0x15)) := by
  simp only [decodeFields, ite_row_unassigned, and_true]
  bv_omega

namespace Machine

/-- On a turn of the block with a free port, a step takes the input at the head of the port (41_strip R100). -/
theorem step_takes_input {s : State} {x : HostInput} {rest : List HostInput} (ht : turnOf s = .block)
    (hfree : PortIsFree s) (hport : s.env.port = x :: rest) : step s = hostInput x (portPopped rest s) := by
  have hturn : blockTurn (endTurn s) = acceptNext (endTurn s) := by
    rcases hfree with hp | hp <;> simp [blockTurn, hp]
  rw [step_block ht, hturn, acceptNext, endTurn_env, hport]
  rfl

theorem hostCommand_illegal {w : CmdWord} {e : DecodeError} (h : decode w = .error e) (s : State) :
    hostCommand w s = .refused (.illegalWord e) := by
  rw [hostCommand, h]

/-- Settles O9: a word that decodes lies in its command's row, so a word in no row is an error, which the port turns into
a refusal; the decoder's tests of `OP` are the two ranges of the table. -/
theorem illegalWordRefused : Obligations.IllegalWordRefused := by
  refine ⟨fun w s hrow => ?_, fun w => decodeFields_unassigned_iff, fun s w rest e ht hfree hport hd => ?_⟩
  · obtain ⟨e, he⟩ := decode_error_of_no_row hrow
    exact ⟨e, he, hostCommand_illegal he s⟩
  · rw [step_takes_input ht hfree hport]
    exact hostCommand_illegal hd _

end Machine

end Sys2Proof
end

section
/-! The packed colour (30_encoding R61). -/

namespace Sys2Proof.Machine

@[simp] theorem unpack_pack (c : Color) : unpack (pack c) = c := by
  have channel := fun ch => packedByte_pack ch c
  exact congr (congr (congr (congrArg Color.mk (channel .red)) (channel .green)) (channel .blue)) (channel .white)

@[simp] theorem pack_unpack (x : Word) : pack (unpack x) = x := append_bytes x

/-- Settles O11: each byte of a packed colour is its channel, and a word is its four bytes. -/
theorem packUnpackInverse : Obligations.PackUnpackInverse :=
  ⟨fun c => ⟨packedByte_pack .red c, packedByte_pack .green c, packedByte_pack .blue c, packedByte_pack .white c⟩,
    unpack_pack, pack_unpack, by decide⟩

end Sys2Proof.Machine
end

section
/-! The response port (30_encoding R69): the word each command answers, and that there is no other. -/

namespace Sys2Proof.Machine

/-- The response word of a command that answers one (R69). -/
def responseOf (s : State) : Instr → Option Word
  | .cget32 cd => some (pack (getReg cd s))
  | .cgetr cd => some (zext32 (getReg cd s).red)
  | .cgetg cd => some (zext32 (getReg cd s).green)
  | .cgetb cd => some (zext32 (getReg cd s).blue)
  | .cgetw cd => some (zext32 (getReg cd s).white)
  | .rdstat => some (statusWord s.ph s.status)
  | _ => none

theorem isSome_responseOf (i : Instr) (s : State) : (responseOf s i).isSome = answers i := by
  cases i <;> rfl

/-- A command with a response word does nothing but answer it. -/
theorem exec_of_responseOf {i : Instr} {s t : State} {v : Word} (hv : responseOf s i = some v)
    (h : exec i s = .next t) : t = respond v s := by
  have answer : ∀ u, colorAnswer u s = .next t → some u = some v → t = respond v s := by
    rintro u hu ⟨⟩
    exact (colorAnswer_next.mp hu).2.symm
  cases i with
  | cget32 cd => exact answer _ h hv
  | cgetr cd => exact answer _ h hv
  | cgetg cd => exact answer _ h hv
  | cgetb cd => exact answer _ h hv
  | cgetw cd => exact answer _ h hv
  | rdstat =>
    cases hv
    exact (Host.Outcome.next.inj (whenAccepted_next.mp h).2).symm
  | _ => cases hv

/-- A command with no response word leaves the response port as it was. -/
theorem exec_silent {i : Instr} {s t : State} (ha : answers i = false) (h : exec i s = .next t) :
    t.obs.responses = s.obs.responses := by
  rcases exec_cases h with ⟨-, -, -, cd, c, -, rfl⟩ | ⟨-, hans, -⟩ | ⟨-, -, idx, c, rfl⟩ | ⟨-, -, rfl⟩ |
    ⟨-, -, -, -, rfl⟩ | ⟨-, -, -, rfl⟩ | ⟨-, -, rfl⟩ | ⟨rfl, -⟩
  · rw [setReg_obs]
  · rw [ha] at hans
    cases hans
  · rcases pixelStore_cases idx c s with ⟨-, hp⟩ | ⟨-, hp⟩ <;> rw [hp]
    rfl
  · rfl
  · rfl
  · rw [showDone_obs]
  · rfl
  · cases ha

/-- Settles O29: the commands that answer append their response word (`exec_of_responseOf`), the others leave the
response port as it was (`exec_silent`). -/
theorem responsesExactlyFromGetters : Obligations.ResponsesExactlyFromGetters := by
  intro i s t h
  refine ⟨fun ha => exec_silent ha h, fun ha => ?_⟩
  obtain ⟨v, hv⟩ := Option.isSome_iff_exists.mp ((isSome_responseOf i s).trans ha)
  have word : ∀ {j u}, i = j → responseOf s j = some u → v = u := by
    rintro j u rfl hu
    exact Option.some.inj (hv.symm.trans hu)
  exact ⟨v, by rw [exec_of_responseOf hv h, respond_obs], fun cd hi => word hi rfl, fun cd hi => word hi rfl,
    fun cd hi => word hi rfl, fun cd hi => word hi rfl, fun cd hi => word hi rfl, fun hi => word hi rfl⟩

end Sys2Proof.Machine
end

section
/-! The line code and the order of a frame's bits (30_encoding R63, R64): the two items, and which bit stands at which
index of WAVE. -/

namespace Sys2Proof.Machine

/-- In a legal configuration the two items differ in the high phase (00_scope R5). -/
theorem zeroItem_high_lt_oneItem_high {c : InstanceConfig} (h : c.wellFormed = true) :
    (zeroItem c).duration0.toNat < (oneItem c).duration0.toNat := by
  simp only [InstanceConfig.wellFormed, InstanceConfig.asymmetric, Bool.and_eq_true, decide_eq_true_eq] at h
  exact h.2

theorem zeroItem_ne_oneItem {c : InstanceConfig} (h : c.wellFormed = true) : zeroItem c ≠ oneItem c := fun heq =>
  absurd (zeroItem_high_lt_oneItem_high h) (heq ▸ Nat.lt_irrefl _)

/-- Settles O32: the items are the literals R63 gives, and T1H > T0H sets them apart. -/
theorem lineCodeItems : Obligations.LineCodeItems := by
  refine ⟨fun c => ⟨rfl, rfl, rfl, rfl⟩,
    fun c hwf => ⟨zeroItem_high_lt_oneItem_high hwf, zeroItem_ne_oneItem hwf⟩, fun c h0h h0l h1h h1l => ?_⟩
  rw [zeroItem, oneItem, h0h, h0l, h1h, h1l]
  decide

/-- Pieces of one length, laid out one after another: entry `i` of piece `p` stands at `n * p + i`. -/
theorem getElem?_flatMap_of_length {α β : Type} {f : α → List β} {n : Nat} (hf : ∀ x, (f x).length = n) {i : Nat}
    (hi : i < n) (xs : List α) (p : Nat) : (xs.flatMap f)[n * p + i]? = xs[p]?.bind (fun x => (f x)[i]?) := by
  induction xs generalizing p with
  | nil => simp
  | cons x xs ih =>
    rw [List.flatMap_cons]
    cases p with
    | zero => rw [Nat.mul_zero, Nat.zero_add, List.getElem?_append_left (by rw [hf]; exact hi)]; rfl
    | succ p =>
      have hpos : n * (p + 1) + i - n = n * p + i := by rw [Nat.mul_succ]; omega
      rw [List.getElem?_append_right (by rw [hf, Nat.mul_succ]; omega), hf, hpos, ih]
      rfl

theorem waveItem_mkwave (j : Nat) (s : State) : waveItem j (mkwave s) = (encodeFrame s.cfg s.pix)[j]? := by
  have hcell := cellGet_cellsFrom 0 j (encodeFrame s.cfg s.pix)
  rwa [Nat.zero_add] at hcell

/-- Item `i` of pixel `p` in WAVE is item `i` of the pixel's encoding (42_encoder R121). -/
theorem waveItem_mkwave_pixel {s : State} {p i : Nat} (hp : p < s.cfg.length) (hi : i < 24) :
    waveItem (24 * p + i) (mkwave s) = (encodePixel s.cfg (pixel p s))[i]? := by
  rw [waveItem_mkwave, encodeFrame,
    getElem?_flatMap_of_length (fun p => length_encodePixel s.cfg (pixRead p s.pix)) hi, List.getElem?_range hp]
  rfl

/-- Item `k` of a byte is that of its bit `7 - k` (10_state R16). -/
theorem getElem?_encodeByte (c : InstanceConfig) (v : Byte) {k : Nat} (hk : k < 8) :
    (encodeByte c v)[k]? = some (itemOf c (v.getLsbD (7 - k))) := by
  have hbit : ∀ k < 8, bitorder[k]? = some (7 - k) := by decide
  rw [encodeByte, List.getElem?_map, hbit k hk]
  rfl

/-- Item `k` of the `c`-th channel that is sent (42_encoder R122). -/
theorem getElem?_encodePixel (cfg : InstanceConfig) (col : Color) {c k : Nat} {ch : Channel}
    (hc : chorder[c]? = some ch) (hk : k < 8) :
    (encodePixel cfg col)[8 * c + k]? = some (itemOf cfg ((packedByte ch (pack col)).getLsbD (7 - k))) := by
  rw [encodePixel, getElem?_flatMap_of_length (fun ch => length_encodeByte cfg (packedByte ch (pack col))) hk, hc]
  exact getElem?_encodeByte cfg _ hk

/-- The bit of the packed colour where a channel's byte begins (R61). -/
def channelLow : Channel → Nat
  | .red => 24
  | .green => 16
  | .blue => 8
  | .white => 0

theorem getLsbD_packedByte (ch : Channel) (x : Word) {k : Nat} (hk : k < 8) :
    (packedByte ch x).getLsbD k = x.getLsbD (channelLow ch + k) := by
  cases ch <;> simp [packedByte, channelLow, hk]

/-- The bit of the packed colour that item `i` of a pixel encodes (R64). -/
def packedBitOf (i : Nat) : Nat := if i < 8 then 23 - i else if i < 16 then 31 - (i - 8) else 15 - (i - 16)

/-- The items of a pixel encode the green, the red and the blue byte of its packed colour in this order (R64). -/
theorem getElem?_encodePixel_packed (cfg : InstanceConfig) (col : Color) {i : Nat} (hi : i < 24) :
    (encodePixel cfg col)[i]? = some (itemOf cfg ((pack col).getLsbD (packedBitOf i))) := by
  have channel : ∀ {c k : Nat} {ch : Channel}, chorder[c]? = some ch → k < 8 → i = 8 * c + k →
      packedBitOf i = channelLow ch + (7 - k) →
      (encodePixel cfg col)[i]? = some (itemOf cfg ((pack col).getLsbD (packedBitOf i))) := by
    intro c k ch hc hk hik hbit
    rw [hbit, ← getLsbD_packedByte ch _ (by omega), hik]
    exact getElem?_encodePixel cfg col hc hk
  rcases Nat.lt_or_ge i 8 with hgreen | hi8
  · exact channel (c := 0) (k := i) (ch := .green) rfl hgreen (by omega) (by grind [packedBitOf, channelLow])
  rcases Nat.lt_or_ge i 16 with hred | hi16
  · exact channel (c := 1) (k := i - 8) (ch := .red) rfl (by omega) (by omega)
      (by grind [packedBitOf, channelLow])
  · exact channel (c := 2) (k := i - 16) (ch := .blue) rfl (by omega) (by omega)
      (by grind [packedBitOf, channelLow])

/-- Settles O35: WAVE holds the pixels' items in order (`waveItem_mkwave_pixel`), each the item of its bit of the packed
colour (`getElem?_encodePixel_packed`), and a frame is LENGTH * 24 items long. -/
theorem frameBitOrder : Obligations.FrameBitOrder := by
  refine ⟨fun s p i hp hi => ?_, fun s j hj => ?_, fun s hlen => ?_⟩
  · rw [waveItem_mkwave_pixel hp hi]
    exact getElem?_encodePixel_packed s.cfg (pixel p s) hi
  · rw [waveItem_mkwave, List.getElem?_eq_none_iff, length_encodeFrame]
    exact hj
  · rw [mkwave_wave, encodeFrame, hlen]
    rfl

end Sys2Proof.Machine
end

section
/-! The two things a Color command can do, write a register or answer a word, and when it is accepted (40_color R80, R95). -/

namespace Sys2Proof.Machine

open Host (Outcome)

@[simp] theorem getReg_setReg_self (r : CReg) (c : Color) (s : State) : getReg r (setReg r c s) = c :=
  regsGet_regsSet_self r c s.cr

theorem getReg_setReg_other {r q : CReg} (h : q ≠ r) (c : Color) (s : State) :
    getReg q (setReg r c s) = getReg q s :=
  regsGet_regsSet_other h c s.cr

@[simp] theorem setReg_getReg_self (r : CReg) (s : State) : setReg r (getReg r s) s = s := by
  cases r <;> rfl

@[simp] theorem getReg_respond (r : CReg) (v : Word) (s : State) : getReg r (respond v s) = getReg r s := rfl

/-- A register write completes where it is accepted: the register holds the Color, and nothing else has changed. -/
theorem colorWrite_of {s : State} (h : ColorAccepted s) (cd : CReg) (c : Color) :
    ∃ t, colorWrite cd c s = .next t ∧ getReg cd t = c ∧ (∀ q, q ≠ cd → getReg q t = getReg q s) ∧
      t = { s with cr := t.cr } :=
  ⟨setReg cd c s, colorWrite_next.mpr ⟨h, rfl⟩, getReg_setReg_self cd c s, fun _ hq => getReg_setReg_other hq c s, rfl⟩

/-- An answer completes where it is accepted, and appends its word. -/
theorem colorAnswer_of {s : State} (h : ColorAccepted s) (v : Word) : colorAnswer v s = .next (respond v s) :=
  colorAnswer_next.mpr ⟨h, rfl⟩

theorem colorAccepted_respond {s : State} (h : ColorAccepted s) (v : Word) : ColorAccepted (respond v s) := h

/-- A command with one next state completes exactly under its row of R100's table. -/
theorem exists_whenAccepted_next {c : CmdClass} {s u : State} :
    (∃ t, whenAccepted c s (.next u) = .next t) ↔ AcceptedAs c s := by
  simp only [whenAccepted_next, Outcome.next.injEq, exists_and_left, exists_eq', and_true]

theorem whenAccepted_notLive {c : CmdClass} {s : State} (h : s.live = false) (out : Outcome State Fault Refusal) :
    whenAccepted c s out = .refused .notLive := by
  simp [whenAccepted, refusalOf, h]

theorem whenAccepted_allocFailed {c : CmdClass} {s : State} (hc : needsAlloc c = true) (hl : s.live = true)
    (hp : PortIsFree s) (ha : s.status.allocFail = true) (out : Outcome State Fault Refusal) :
    whenAccepted c s out = .refused .allocFailed := by
  simp [whenAccepted, refusalOf, hc, hl, (portFree_iff s).mpr hp, ha]

theorem whenAccepted_next_not_fault (c : CmdClass) (s u : State) (f : Fault) :
    whenAccepted c s (.next u) ≠ .fault f := by
  cases h : refusalOf c s <;> simp [whenAccepted, h]

/-- A Color command has one next state, under the acceptance of Color commands. -/
theorem exec_color {i : Instr} (h : classOf i = .color) (s : State) :
    ∃ u, exec i s = whenAccepted .color s (.next u) := by
  cases i with
  | csetrgbw | csetcolor | cset32 | csetr | csetg | csetb | csetw => exact ⟨_, rfl⟩
  | cget32 | cgetr | cgetg | cgetb | cgetw => exact ⟨_, rfl⟩
  | setpixc | setpixrgbw | clear | showStrip | destroy | rdstat => cases h

/-- Settles O21: a Color command has one next state (`exec_color`), so acceptance alone decides its outcome. -/
theorem colorCommandAcceptance : Obligations.ColorCommandAcceptance := by
  intro i s hi
  obtain ⟨u, hu⟩ := exec_color hi s
  rw [hu]
  exact ⟨exists_whenAccepted_next, fun hl => whenAccepted_notLive hl _,
    fun hl hp ha => whenAccepted_allocFailed rfl hl hp ha _, whenAccepted_next_not_fault .color s u⟩

end Sys2Proof.Machine
end

section
/-! The Color commands one by one (40_color R81 to R92), and what is read back of what was set (R93). -/

namespace Sys2Proof.Machine

/-- Zero extension puts 24 zero bits before a channel (00_scope R7). -/
theorem zext32_eq_append (v : Byte) : zext32 v = (0 : BitVec 24) ++ v := by
  rw [zext32]
  ext i hi
  grind

/-- The packed colour as the shifts and ors of R61. -/
theorem pack_eq_shifts (c : Color) :
    pack c = c.red.setWidth 32 <<< 24 ||| c.green.setWidth 32 <<< 16 ||| c.blue.setWidth 32 <<< 8 |||
      c.white.setWidth 32 := by
  rw [pack]
  ext i hi
  grind

/-- A getter of one channel answers 24 zero bits and the channel. -/
theorem colorAnswer_zext32_of {s : State} (h : ColorAccepted s) (v : Byte) :
    colorAnswer (zext32 v) s = .next (respond ((0 : BitVec 24) ++ v) s) := by
  rw [zext32_eq_append]
  exact colorAnswer_of h _

/-- The pseudo-command is CSETRGBW with `w = 0` (30_encoding R72). -/
theorem assemble_csetrgb (cd r g b : Nat) : assemble (.csetrgb cd r g b) = assemble (.csetrgbw cd r g b 0) := by
  simp [assemble, Asm.wellFormed, asmInstr, byteOk]

/-- CSETRGBW does what CSET32 of the packed colour does (R81). -/
theorem exec_csetrgbw_eq_cset32 (s : State) (cd : CReg) (r g b w : Byte) :
    exec (.csetrgbw cd r g b w) s = exec (.cset32 cd (pack (rgbw r g b w))) s :=
  congrArg (colorWrite cd · s) (unpack_pack (rgbw r g b w)).symm

/-- Settles O19: each answer reads the register just written; `pack` undoes `unpack`, and is the shifts of R61. -/
theorem colorRoundTripLaws : Obligations.ColorRoundTripLaws := by
  refine ⟨fun s cd x h => ?_, fun s cd r g b w h => ?_⟩
  · obtain ⟨t, ht, hreg, -, hframe⟩ := colorWrite_of h cd (unpack x)
    have hacc : ColorAccepted t := by rw [hframe]; exact h
    refine ⟨t, _, ht, colorAnswer_of hacc _, ?_⟩
    rw [hreg, pack_unpack, hframe]
    rfl
  · obtain ⟨t, ht, hreg, -, hframe⟩ := colorWrite_of h cd (rgbw r g b w)
    have hacc : ColorAccepted t := by rw [hframe]; exact h
    have hobs : t.obs = s.obs := by rw [hframe]
    have hacc1 := colorAccepted_respond hacc (zext32 (getReg cd t).red)
    have hacc2 := colorAccepted_respond hacc1 (zext32 (getReg cd t).green)
    have hacc3 := colorAccepted_respond hacc2 (zext32 (getReg cd t).blue)
    refine ⟨t, _, _, _, _, _, ht, colorAnswer_of hacc _, colorAnswer_of hacc1 _, colorAnswer_of hacc2 _,
      colorAnswer_of hacc3 _, ?_, colorAnswer_of hacc _, ?_⟩
    · simp only [respond_obs, getReg_respond, hreg, hobs, List.append_assoc]
      rfl
    · simp only [respond_obs, hreg, hobs, pack_eq_shifts]
      rfl

/-- Settles O13: the write of four immediates (`colorWrite_of`), the pseudo-command, and CSET32 as another way to the same write. -/
theorem csetrgbwOverwritesAllChannels : Obligations.CsetrgbwOverwritesAllChannels :=
  ⟨fun _ cd r g b w h => colorWrite_of h cd (rgbw r g b w), assemble_csetrgb, exec_csetrgbw_eq_cset32,
    fun _ _ _ _ _ => rfl, by decide⟩

/-- Settles O14: the write of another register's Color; a register written with its own Color is unchanged. -/
theorem csetcolorCopiesRegister : Obligations.CsetcolorCopiesRegister := by
  refine ⟨fun s cd cs h => ?_, fun _ _ => rfl, by decide⟩
  obtain ⟨t, ht, hreg, hother, hframe⟩ := colorWrite_of h cd (getReg cs s)
  refine ⟨t, ht, hreg, hother, hframe, ?_⟩
  rintro rfl
  rw [← (colorWrite_next.mp ht).2, setReg_getReg_self]

/-- Settles O15: the write of the unpacked immediate. -/
theorem cset32Unpacks : Obligations.Cset32Unpacks :=
  ⟨fun _ cd x h => colorWrite_of h cd (unpack x), fun _ _ => rfl, by decide⟩

/-- Settles O16: the answer of the packed colour. -/
theorem cget32RespondsPackedColour : Obligations.Cget32RespondsPackedColour :=
  ⟨fun s cd h => colorAnswer_of h (pack (getReg cd s)), fun _ => rfl, by decide⟩

/-- Settles O17: each setter writes the register's Color with one channel replaced. -/
theorem channelSettersWriteOneChannel : Obligations.ChannelSettersWriteOneChannel := by
  refine ⟨fun s cd v h => ?_, fun op cd v i hi => ?_, by decide, by decide, by decide, by decide⟩
  · have setter (ch : Channel) := colorWrite_of h cd (chanSet ch v (getReg cd s))
    exact ⟨setter .red, setter .green, setter .blue, setter .white⟩
  · simp only [List.mem_cons, Prod.mk.injEq, List.not_mem_nil, or_false] at hi
    rcases hi with ⟨rfl, rfl⟩ | ⟨rfl, rfl⟩ | ⟨rfl, rfl⟩ | ⟨rfl, rfl⟩ <;> rfl

/-- Settles O18: each getter answers its channel, zero-extended. -/
theorem channelGettersRespondZeroExtended : Obligations.ChannelGettersRespondZeroExtended := by
  refine ⟨fun s cd h => ?_, fun op cd i hi => ?_, by decide, by decide, by decide, by decide⟩
  · have getter (ch : Channel) := colorAnswer_zext32_of h (chanGet ch (getReg cd s))
    exact ⟨getter .red, getter .green, getter .blue, getter .white⟩
  · simp only [List.mem_cons, Prod.mk.injEq, List.not_mem_nil, or_false] at hi
    rcases hi with ⟨rfl, rfl⟩ | ⟨rfl, rfl⟩ | ⟨rfl, rfl⟩ | ⟨rfl, rfl⟩ <;> rfl

end Sys2Proof.Machine
end

section
/-! What each command leaves unchanged (41_strip R108), and a dead instance (R100). -/

namespace Sys2Proof.Machine

theorem pixelStore_of_lt {idx : PixIdx} {s : State} (h : idx.toNat < s.cfg.length) (c : Color) :
    pixelStore idx c s = putPixel idx.toNat c s := by
  simp [pixelStore, idxInRange, h]

theorem pixelStore_of_le {idx : PixIdx} {s : State} (h : s.cfg.length ≤ idx.toNat) (c : Color) :
    pixelStore idx c s = s := by
  simp [pixelStore, idxInRange, Nat.not_lt.mpr h]

/-- A pixel store writes PIX only (R108). -/
theorem pixelStore_frame (idx : PixIdx) (c : Color) (s : State) :
    pixelStore idx c s = { s with pix := (pixelStore idx c s).pix } := by
  rcases pixelStore_cases idx c s with ⟨-, hp⟩ | ⟨-, hp⟩ <;> rw [hp]
  rfl

/-- The commands of class `pixel` write PIX only (R108). -/
theorem exec_pixel_frame {i : Instr} {s t : State} (hi : classOf i = .pixel) (h : exec i s = .next t) :
    t = { s with pix := t.pix } := by
  rcases exec_cases h with ⟨hc, -⟩ | ⟨hc, -⟩ | ⟨-, -, idx, c, rfl⟩ | ⟨-, -, rfl⟩ | ⟨rfl, -⟩ | ⟨rfl, -⟩ | ⟨rfl, -⟩ |
    ⟨rfl, -⟩
  · cases hi.symm.trans hc
  · cases hi.symm.trans hc
  · exact pixelStore_frame idx c s
  · rfl
  all_goals cases hi

/-- The Color commands write Color registers and the response port only (40_color R80). -/
theorem exec_color_frame {i : Instr} {s t : State} (hi : classOf i = .color) (h : exec i s = .next t) :
    t = { s with cr := t.cr, obs := { s.obs with responses := t.obs.responses } } := by
  rcases exec_cases h with ⟨-, -, -, cd, c, -, rfl⟩ | ⟨-, -, -, -, v, rfl⟩ | ⟨hc, -⟩ | ⟨rfl, -⟩ | ⟨rfl, -⟩ | ⟨rfl, -⟩ |
    ⟨rfl, -⟩ | ⟨rfl, -⟩
  · rfl
  · rfl
  · cases hi.symm.trans hc
  all_goals cases hi

/-- No command but SHOW touches the peripheral, PH, the flags, the configuration or the inputs (R108, 60_exceptions R152). -/
theorem exec_not_show_frame {i : Instr} {s t : State} (hi : i ≠ .showStrip) (h : exec i s = .next t) :
    t = { s with
      cr := t.cr
      pix := t.pix
      wave := t.wave
      live := t.live
      draw := t.draw
      obs := { s.obs with responses := t.obs.responses } } := by
  rcases exec_cases h with ⟨-, -, -, cd, c, -, rfl⟩ | ⟨-, -, -, -, v, rfl⟩ | ⟨-, -, idx, c, rfl⟩ | ⟨-, -, rfl⟩ |
    ⟨hs, -⟩ | ⟨hs, -⟩ | ⟨-, -, rfl⟩ | ⟨-, -, rfl⟩
  · rfl
  · rfl
  · rw [pixelStore_frame]
  · rfl
  · exact absurd hs hi
  · exact absurd hs hi
  · rfl
  · rfl

/-- Every command must first be accepted under its row of R100's table. -/
theorem exec_eq_whenAccepted (i : Instr) (s : State) : ∃ out, exec i s = whenAccepted (classOf i) s out := by
  cases i <;> exact ⟨_, rfl⟩

theorem exec_notLive {s : State} (h : s.live = false) (i : Instr) : exec i s = .refused .notLive := by
  obtain ⟨out, hout⟩ := exec_eq_whenAccepted i s
  rw [hout, whenAccepted_notLive h]

end Sys2Proof.Machine
end

section
/-! The pixel commands SETPIXC, SETPIXRGBW and CLEAR (41_strip R101 to R103, R108, R110, R111). -/

namespace Sys2Proof.Machine

open Host (Outcome)

/-! One pixel stored. -/

theorem pixel_pixelStore_self {idx : PixIdx} {s : State} (h : idx.toNat < s.cfg.length) (c : Color) :
    pixel idx.toNat (pixelStore idx c s) = c := by
  rw [pixelStore_of_lt h]
  exact pixRead_pixWrite_self idx.toNat c s.pix

/-- A pixel store leaves every pixel but its own, and its own too if its index is out of range. -/
theorem pixel_pixelStore_other {idx : PixIdx} {a : Nat} {s : State} (h : idx.toNat < s.cfg.length → a ≠ idx.toNat)
    (c : Color) : pixel a (pixelStore idx c s) = pixel a s := by
  rcases pixelStore_cases idx c s with ⟨hlt, hp⟩ | ⟨-, hp⟩ <;> rw [hp]
  exact pixRead_pixWrite_other (h hlt) c s.pix

/-- A pixel store completes where it is accepted: it writes its pixel if that is in range, and nothing else. -/
theorem whenAccepted_pixelStore_of {s : State} (h : PixelAccepted s) (idx : PixIdx) (c : Color) :
    ∃ t, whenAccepted .pixel s (.next (pixelStore idx c s)) = .next t ∧
      (idx.toNat < s.cfg.length → pixel idx.toNat t = c) ∧ (∀ a, a ≠ idx.toNat → pixel a t = pixel a s) ∧
      (s.cfg.length ≤ idx.toNat → t = s) ∧ t = { s with pix := t.pix } :=
  ⟨pixelStore idx c s, whenAccepted_of (c := .pixel) h _, fun hlt => pixel_pixelStore_self hlt c,
    fun _ ha => pixel_pixelStore_other (fun _ => ha) c, fun hle => pixelStore_of_le hle c, pixelStore_frame idx c s⟩

theorem whenAccepted_pixelStore_frame {s t : State} {idx : PixIdx} {c : Color}
    (h : whenAccepted .pixel s (.next (pixelStore idx c s)) = .next t) :
    (∀ a, (idxInRange idx s.cfg.length = true → a ≠ idx.toNat) → pixel a t = pixel a s) ∧
      t = { s with pix := t.pix } := by
  obtain ⟨-, ht⟩ := whenAccepted_next.mp h
  cases ht
  exact ⟨fun a ha => pixel_pixelStore_other (fun hlt => ha (decide_eq_true hlt)) c, pixelStore_frame idx c s⟩

/-- The pseudo-command is SETPIXRGBW with `w = 0` (30_encoding R72). -/
theorem assemble_setpixrgb (idx r g b : Nat) : assemble (.setpixrgb idx r g b) = assemble (.setpixrgbw idx r g b 0) := by
  simp [assemble, Asm.wellFormed, asmInstr, byteOk]

/-- Settles O22: the store of a register's Color; a Color command afterwards leaves PIX (`exec_color_frame`). -/
theorem setpixcWritesOnePixel : Obligations.SetpixcWritesOnePixel := by
  refine ⟨fun s idx cs h => ?_, fun _ _ => rfl, by decide⟩
  obtain ⟨t, ht, hself, hother, hout, hframe⟩ := whenAccepted_pixelStore_of h idx (getReg cs s)
  refine ⟨t, ht, hself, hother, hout, hframe, fun i u a hi hu => ?_⟩
  rw [exec_color_frame hi hu]
  rfl

/-- Settles O23: the store of four immediates, and the pseudo-command. -/
theorem setpixrgbwWritesOnePixel : Obligations.SetpixrgbwWritesOnePixel :=
  ⟨fun _ idx r g b w h => whenAccepted_pixelStore_of h idx (rgbw r g b w), assemble_setpixrgb,
    fun _ _ _ _ _ => rfl, by decide, by decide⟩

/-- Settles O24: where accepted, a store out of range leaves the state it found. -/
theorem outOfRangeIndexChangesNothing : Obligations.OutOfRangeIndexChangesNothing := by
  intro s idx h hle
  have store (c : Color) : whenAccepted .pixel s (.next (pixelStore idx c s)) = .next s := by
    rw [pixelStore_of_le hle, whenAccepted_of (c := .pixel) h]
  exact ⟨fun cs => store (getReg cs s), fun r g b w => store (rgbw r g b w)⟩

/-! CLEAR. -/

/-- The state CLEAR leaves (R103). -/
def cleared (s : State) : State := { s with pix := pixClear s.cfg.length s.pix }

theorem exec_clear_next {s t : State} : exec .clear s = .next t ↔ PixelAccepted s ∧ cleared s = t := by
  have hrow : exec .clear s = whenAccepted .pixel s (.next (cleared s)) := rfl
  rw [hrow, whenAccepted_next, Outcome.next.injEq]
  exact Iff.rfl

theorem pixel_cleared (i : Nat) (s : State) : pixel i (cleared s) = if i < s.cfg.length then black else pixel i s :=
  pixRead_pixClear s.cfg.length i s.pix

theorem pixel_cleared_of_lt {i : Nat} {s : State} (h : i < s.cfg.length) : pixel i (cleared s) = black := by
  rw [pixel_cleared, if_pos h]

theorem pixel_cleared_of_le {i : Nat} {s : State} (h : s.cfg.length ≤ i) : pixel i (cleared s) = pixel i s := by
  rw [pixel_cleared, if_neg (Nat.not_lt.mpr h)]

/-- On an empty strip CLEAR changes nothing. -/
theorem cleared_of_length_zero {s : State} (h : s.cfg.length = 0) : cleared s = s := by
  simp [cleared, pixClear, h]

theorem pixClear_pixClear (n : Nat) (m : Cells Color) : pixClear n (pixClear n m) = pixClear n m := by
  simp [pixClear]

theorem cleared_cleared (s : State) : cleared (cleared s) = cleared s :=
  congrArg (fun m => { s with pix := m }) (pixClear_pixClear s.cfg.length s.pix)

/-- Settles O25: the pixels that `cleared` leaves, below LENGTH and from LENGTH on. -/
theorem clearBlackensEveryPixel : Obligations.ClearBlackensEveryPixel :=
  ⟨fun s h => ⟨cleared s, exec_clear_next.mpr ⟨h, rfl⟩, fun _ hi => pixel_cleared_of_lt hi,
    fun _ hi => pixel_cleared_of_le hi, rfl, cleared_of_length_zero⟩, by decide⟩

/-- Settles O26: `cleared` is idempotent and accepted where it was before; a canonical PIX lists indices below LENGTH
only, so nothing is left of it. -/
theorem clearIsIdempotent : Obligations.ClearIsIdempotent := by
  refine ⟨fun s t h => ?_, fun s t hwf h => ?_⟩
  · obtain ⟨hacc, rfl⟩ := exec_clear_next.mp h
    exact exec_clear_next.mpr ⟨hacc, cleared_cleared s⟩
  · obtain ⟨-, rfl⟩ := exec_clear_next.mp h
    obtain ⟨hpix, -⟩ := Bool.and_eq_true_iff.mp hwf
    exact pixClear_eq_nil hpix

/-- Settles O27: the frame of a store and of `cleared`, and for the last clause that of every command but SHOW
(`exec_not_show_frame`). -/
theorem pixelCommandsFrame : Obligations.PixelCommandsFrame := by
  refine fun s t => ⟨fun idx cs h => whenAccepted_pixelStore_frame h,
    fun idx r g b w h => whenAccepted_pixelStore_frame h, fun h => ?_, fun i hi h => ?_, fun i hi h => ?_⟩
  · obtain ⟨-, rfl⟩ := exec_clear_next.mp h
    exact ⟨fun _ ha => pixel_cleared_of_le ha, rfl⟩
  · rw [exec_pixel_frame hi h]
    exact ⟨rfl, rfl, rfl, rfl, fun _ => rfl, fun _ => rfl⟩
  · rw [exec_not_show_frame hi h]
    exact ⟨rfl, rfl, rfl, rfl⟩

end Sys2Proof.Machine
end

section
/-! DESTROY and RDSTAT (41_strip R105, R106; 30_encoding R70). -/

namespace Sys2Proof.Machine

theorem exec_destroy_of {s : State} (h : DestroyAccepted s) :
    exec .destroy s = .next (loseContents { s with live := false }) :=
  whenAccepted_of (c := .destroying) h _

/-- DESTROY is refused while a frame is in flight (R105). -/
theorem whenAccepted_destroyInFlight {s : State} (hl : s.live = true) (hp : s.ph = .tx)
    (out : Host.Outcome State Fault Refusal) : whenAccepted .destroying s out = .refused .destroyInFlight := by
  simp [whenAccepted, refusalOf, portFree, needsAlloc, needsPeripheral, needsIdle, hl, hp]

/-- Settles O54: what DESTROY leaves in IDLE is dead, so every command is refused from it (`exec_notLive`). -/
theorem destroyEndsInstance : Obligations.DestroyEndsInstance :=
  ⟨fun _ hl hp => ⟨_, exec_destroy_of ⟨hl, hp⟩, rfl, exec_notLive rfl⟩,
    fun _ hl hp => whenAccepted_destroyInFlight hl hp _, by decide⟩

theorem exec_rdstat_of {s : State} (h : RdstatAccepted s) :
    exec .rdstat s = .next (respond (statusWord s.ph s.status) s) :=
  whenAccepted_of (c := .status) h _

/-- The phase field of the STATUS word (30_encoding R70). -/
theorem statusWord_phase (ph : Ph) (f : Status) : (statusWord ph f).extractLsb' 4 2 = phCode ph := by
  rw [statusWord]
  ext i hi
  grind

/-- The flag bits of the STATUS word, and the bits that are zero (R106). -/
theorem statusWord_flags (ph : Ph) (f : Status) :
    (statusWord ph f).extractLsb' 6 26 = 0 ∧ (statusWord ph f).getLsbD 3 = false ∧
      (statusWord ph f).getLsbD 2 = f.installErr ∧ (statusWord ph f).getLsbD 1 = f.cfgErr ∧
      (statusWord ph f).getLsbD 0 = f.allocFail := by
  rw [statusWord]
  refine ⟨?_, ?_, ?_, ?_, ?_⟩
  · ext i hi
    grind
  all_goals simp only [flagBit, BitVec.getLsbD_append]; grind

/-- Settles O55: RDSTAT answers `statusWord`, whose fields are those of R70. -/
theorem rdstatRespondsStatusWord : Obligations.RdstatRespondsStatusWord := by
  refine ⟨fun s hl hfree => ?_, ⟨rfl, rfl, rfl, rfl⟩, by decide⟩
  obtain ⟨hzero, hbit3, hinstall, hcfg, halloc⟩ := statusWord_flags s.ph s.status
  refine ⟨statusWord s.ph s.status, exec_rdstat_of ⟨hl, hfree⟩, hzero, hbit3, hinstall, hcfg, halloc,
    fun hp => ?_, fun hp => ?_⟩ <;> rw [statusWord_phase, hp] <;> rfl

end Sys2Proof.Machine
end

section
/-! The frame MKWAVE encodes (42_encoder R121 to R125, R134): the item at each index, what the frame depends on, and that
it holds items of the line code only. -/

namespace Sys2Proof.Machine

/-- The items of a pixel are those of its green, its red and its blue byte; white has none (42_encoder R122). -/
theorem encodePixel_eq_append (c : InstanceConfig) (col : Color) :
    encodePixel c col = encodeByte c col.green ++ encodeByte c col.red ++ encodeByte c col.blue := by
  simp [encodePixel, chorder, packedByte_pack, chanGet]

/-- Settles O39: the items of a pixel are those of its three bytes (`encodePixel_eq_append`), and those of the bytes 0 and
0xFF are one item eight times over. -/
theorem redPixelExample : Obligations.RedPixelExample := by
  intro c w
  have hzeros : encodeByte c 0 = List.replicate 8 (zeroItem c) := rfl
  have hones : encodeByte c 0xFF = List.replicate 8 (oneItem c) := rfl
  rw [encodePixel_eq_append, hzeros, hones]

/-- Item `8 * c + k` of a pixel in WAVE is that of bit `7 - k` of its green, red or blue byte (R121). -/
theorem waveItem_mkwave_bit {s : State} {p c k : Nat} (hp : p < s.cfg.length) (hc : c < 3) (hk : k < 8) :
    waveItem (24 * p + 8 * c + k) (mkwave s) = some (itemOf s.cfg
      ((if c = 0 then (pixel p s).green else if c = 1 then (pixel p s).red else (pixel p s).blue).getLsbD (7 - k))) := by
  have channel : ∀ {ch : Channel}, chorder[c]? = some ch →
      waveItem (24 * p + 8 * c + k) (mkwave s) = some (itemOf s.cfg ((chanGet ch (pixel p s)).getLsbD (7 - k))) := by
    intro ch hch
    rw [Nat.add_assoc, waveItem_mkwave_pixel hp (by omega), getElem?_encodePixel s.cfg (pixel p s) hch hk,
      packedByte_pack]
  match c with
  | 0 => exact channel (ch := .green) rfl
  | 1 => exact channel (ch := .red) rfl
  | 2 => exact channel (ch := .blue) rfl

/-! What the frame depends on. -/

theorem encodePixel_eq_of_items {c c' : InstanceConfig} (hzero : zeroItem c = zeroItem c')
    (hone : oneItem c = oneItem c') (col : Color) : encodePixel c col = encodePixel c' col := by
  have hitem : itemOf c = itemOf c' := by
    funext bit
    rw [itemOf, itemOf, hzero, hone]
  simp only [encodePixel, encodeByte, hitem]

theorem encodeFrame_eq_of_pixels {c c' : InstanceConfig} {pix pix' : Cells Color} (hlen : c.length = c'.length)
    (hpix : ∀ p, p < c.length → encodePixel c (pixRead p pix) = encodePixel c' (pixRead p pix')) :
    encodeFrame c pix = encodeFrame c' pix' := by
  rw [encodeFrame, encodeFrame, ← hlen]
  exact List.flatMap_congr fun p hp => hpix p (List.mem_range.mp hp)

/-- WAVE after MKWAVE is the frame, so it depends on nothing else. -/
theorem mkwave_wave_eq_of_frame {s s' : State} (h : encodeFrame s.cfg s.pix = encodeFrame s'.cfg s'.pix) :
    (mkwave s).wave = (mkwave s').wave :=
  congrArg (cellsFrom 0) h

/-- The frame does not depend on white (R125). -/
theorem encodeFrame_eq_of_rgb {s s' : State} (hcfg : s.cfg = s'.cfg)
    (h : ∀ p, p < s.cfg.length → (pixel p s).red = (pixel p s').red ∧ (pixel p s).green = (pixel p s').green ∧
      (pixel p s).blue = (pixel p s').blue) :
    encodeFrame s.cfg s.pix = encodeFrame s'.cfg s'.pix := by
  rw [← hcfg]
  refine encodeFrame_eq_of_pixels rfl fun p hp => ?_
  obtain ⟨hred, hgreen, hblue⟩ := h p hp
  change encodePixel s.cfg (pixel p s) = encodePixel s.cfg (pixel p s')
  rw [encodePixel_eq_append, encodePixel_eq_append, hred, hgreen, hblue]

/-- Settles O34: the item at each index (`waveItem_mkwave_bit`), and pixels below LENGTH encoded with the same two items. -/
theorem waveformClosedForm : Obligations.WaveformClosedForm := by
  refine ⟨fun s p c k => waveItem_mkwave_bit, fun s s' hlen hzero hone hpix => ?_⟩
  have hframe : encodeFrame s.cfg s.pix = encodeFrame s'.cfg s'.pix := encodeFrame_eq_of_pixels hlen fun p hp =>
    (encodePixel_eq_of_items hzero hone _).trans (congrArg (encodePixel s'.cfg) (hpix p hp))
  exact ⟨mkwave_wave_eq_of_frame hframe, hframe⟩

/-! The items of the line code and no other (R123). -/

theorem eq_zeroItem_or_oneItem_of_mem_encodeFrame {c : InstanceConfig} {pix : Cells Color} {it : Item}
    (h : it ∈ encodeFrame c pix) : it = zeroItem c ∨ it = oneItem c := by
  simp only [encodeFrame, encodePixel, encodeByte, List.mem_flatMap, List.mem_map] at h
  obtain ⟨p, -, ch, -, b, -, rfl⟩ := h
  cases (packedByte ch (pack (pixRead p pix))).getLsbD b
  · exact .inl rfl
  · exact .inr rfl

theorem eq_zeroItem_or_oneItem_of_waveItem_mkwave {s : State} {j : Nat} {it : Item}
    (h : waveItem j (mkwave s) = some it) : it = zeroItem s.cfg ∨ it = oneItem s.cfg := by
  rw [waveItem_mkwave] at h
  exact eq_zeroItem_or_oneItem_of_mem_encodeFrame (List.mem_of_getElem? h)

/-- A SHOW that hands off leaves WAVE as MKWAVE does (41_strip R104). -/
theorem wave_of_exec_showStrip {s t : State} (h : exec .showStrip s = .next t) (hbusy : s.busy = false) :
    t.wave = (mkwave s).wave := by
  obtain ⟨-, ⟨hb, -⟩ | ⟨-, -, -, -, rfl⟩⟩ := execShow_next.mp h
  · rw [hbusy] at hb
    cases hb
  · rw [showDone_wave, mkwave_wave]

/-- No command changes the configuration (10_state R17). -/
theorem exec_cfg {i : Instr} {s t : State} (h : exec i s = .next t) : t.cfg = s.cfg := by
  by_cases hi : i = .showStrip
  · subst hi
    obtain ⟨-, ⟨-, -, rfl⟩ | ⟨-, -, -, -, rfl⟩⟩ := execShow_next.mp h
    · rw [callWaitIdle_cfg, setPhase_cfg]
    · rw [showDone_cfg]
  · rw [exec_not_show_frame hi h]

/-- Settles O37: the item at each index (`waveItem_mkwave_bit`), the two items as the only values of a frame, and that no
command changes the configuration they come from. -/
theorem waveHoldsLineItemsOnly : Obligations.WaveHoldsLineItemsOnly := by
  refine ⟨fun c => ⟨rfl, rfl, zeroItem_high_lt_oneItem_high⟩, fun s p c k => waveItem_mkwave_bit, fun i s t h => ?_,
    fun s j it => eq_zeroItem_or_oneItem_of_waveItem_mkwave, fun s t j it h hbusy hit => ?_⟩
  · rw [exec_cfg h]
    exact ⟨rfl, rfl⟩
  · rw [waveItem, wave_of_exec_showStrip h hbusy] at hit
    exact eq_zeroItem_or_oneItem_of_waveItem_mkwave hit

/-! White (R125). -/

/-- A pixel store that changes at most the white of its pixel leaves the frame. -/
theorem encodeFrame_pixelStore_of_rgb {idx : PixIdx} {col : Color} {s : State}
    (h : (pixel idx.toNat s).red = col.red ∧ (pixel idx.toNat s).green = col.green ∧
      (pixel idx.toNat s).blue = col.blue) :
    encodeFrame (pixelStore idx col s).cfg (pixelStore idx col s).pix = encodeFrame s.cfg s.pix := by
  refine (encodeFrame_eq_of_rgb (by rw [pixelStore_frame]) fun p hlt => ?_).symm
  by_cases hp : p = idx.toNat
  · subst hp
    rw [pixel_pixelStore_self hlt]
    exact h
  · rw [pixel_pixelStore_other fun _ => hp]
    exact ⟨rfl, rfl, rfl⟩

/-- Settles O38: a frame is made of red, green and blue (`encodeFrame_eq_of_rgb`), so a white written to a cleared strip
leaves it; the white of a register is read back from the register just written. -/
theorem whiteInvariance : Obligations.WhiteInvariance := by
  refine ⟨fun s s' hcfg hrgb => ?_, fun s t u idx w hidx ht hu => ?_, fun s t cd v ht => ?_⟩
  · have hframe := encodeFrame_eq_of_rgb hcfg hrgb
    exact ⟨hframe, mkwave_wave_eq_of_frame hframe⟩
  · obtain ⟨-, rfl⟩ := exec_clear_next.mp ht
    obtain ⟨-, hu⟩ := whenAccepted_next.mp hu
    cases hu
    have hblack : pixel idx.toNat (cleared s) = black := pixel_cleared_of_lt hidx
    have hrgb : (pixel idx.toNat (cleared s)).red = 0 ∧ (pixel idx.toNat (cleared s)).green = 0 ∧
        (pixel idx.toNat (cleared s)).blue = 0 := by
      rw [hblack]
      exact ⟨rfl, rfl, rfl⟩
    exact ⟨mkwave_wave_eq_of_frame (encodeFrame_pixelStore_of_rgb (col := rgbw 0 0 0 w) hrgb),
      congrArg Color.white (pixel_pixelStore_self (s := cleared s) hidx (rgbw 0 0 0 w))⟩
  · obtain ⟨hacc, rfl⟩ := colorWrite_next.mp ht
    have hacc' : ColorAccepted (setReg cd (chanSet .white v (getReg cd s)) s) := hacc
    refine ⟨_, _, _, colorAnswer_zext32_of hacc' _, ?_, colorAnswer_of hacc' _, rfl, ?_⟩ <;> rw [getReg_setReg_self]
    · rfl
    · exact packedByte_pack .white _

end Sys2Proof.Machine
end

section
/-! An answer other than Ok inside SHOW (60_exceptions R149): the faults of `transmit` and `waitIdle`, and how a SHOW
reaches them from the port and from PH = WAIT. -/

namespace Sys2Proof.Machine

theorem nitems_ne_zero {c : InstanceConfig} (h : c.length ≠ 0) : nitems c ≠ 0 :=
  Nat.mul_ne_zero h (by decide)

theorem transmit_of_err {s : State} (hbusy : s.busy = false)
    (hcount : ¬(nitems s.cfg = 0 ∧ s.cfg.zeroCountTxOk = false)) (hans : nextAnswer s.env.txAnswers = .err) :
    transmit s = .fault .transmitError := by
  simp [transmit, hbusy, hcount, hans]

/-- SHOW in PH = ENC faults when `transmit` does. -/
theorem showEncode_of_err {s : State} (hbusy : s.busy = false)
    (hcount : ¬(nitems s.cfg = 0 ∧ s.cfg.zeroCountTxOk = false)) (hans : nextAnswer s.env.txAnswers = .err) :
    showEncode s = .fault .transmitError := by
  have htx : transmit (emitDiag (.frameBits (nitems s.cfg)) (mkwave s)) = .fault .transmitError :=
    transmit_of_err hbusy hcount hans
  rw [showEncode, htx]

theorem showWait_of_waitErr {s : State} (hbusy : s.busy = false) (hans : nextAnswer s.env.waitAnswers = .err) :
    showWait s = .fault .waitIdleError := by
  simp [showWait, hbusy, hans]

theorem showWait_of_waitOk {s : State} (hbusy : s.busy = false) (hans : nextAnswer s.env.waitAnswers = .ok) :
    showWait s = showEncode (setPhase .enc (consumeWaitAnswer s)) := by
  simp [showWait, hbusy, hans]

/-- A SHOW in PH = WAIT that finds BUSY = 0 faults on an Err of either call (R149). -/
theorem showWait_peripheralError {s : State} (hbusy : s.busy = false) :
    (∀ rest, s.env.waitAnswers = .err :: rest → showWait s = .fault .waitIdleError) ∧
    (∀ rest, nextAnswer s.env.waitAnswers = .ok → s.env.txAnswers = .err :: rest →
      (s.cfg.length ≠ 0 ∨ s.cfg.zeroCountTxOk = true) → showWait s = .fault .transmitError) := by
  refine ⟨fun rest hwait => showWait_of_waitErr hbusy (by rw [hwait]; rfl), fun rest hwait htx hsend => ?_⟩
  have hcount : ¬(nitems s.cfg = 0 ∧ s.cfg.zeroCountTxOk = false) := by
    rintro ⟨hzero, hrejects⟩
    rcases hsend with hlen | haccepts
    · exact nitems_ne_zero hlen hzero
    · exact Bool.noConfusion (hrejects.symm.trans haccepts)
  have hans : nextAnswer s.env.txAnswers = .err := by rw [htx]; rfl
  rw [showWait_of_waitOk hbusy hwait]
  exact showEncode_of_err hbusy hcount hans

/-- An accepted SHOW calls `waitIdle` and goes on from PH = WAIT (41_strip R104). -/
theorem exec_showStrip_of {s : State} (h : ShowAccepted s) :
    exec .showStrip s = showWait (callWaitIdle (setPhase .wait s)) :=
  whenAccepted_of (c := .showing) h _

theorem blockTurn_of_wait {s : State} (h : s.ph = .wait) : blockTurn s = showWait s := by
  rw [blockTurn, h]

/-- Settles O44: an accepted SHOW and a turn in PH = WAIT are both a SHOW in PH = WAIT, with the same BUSY, configuration
and answers to come, and that faults on an Err (`showWait_peripheralError`). -/
theorem peripheralErrorInShowFaults : Obligations.PeripheralErrorInShowFaults := by
  refine ⟨fun s haccepted hbusy => ?_, fun s hwait hbusy => ?_⟩
  · rw [exec_showStrip_of haccepted]
    exact showWait_peripheralError (s := callWaitIdle (setPhase .wait s)) hbusy
  · rw [blockTurn_of_wait hwait]
    exact showWait_peripheralError hbusy

end Sys2Proof.Machine
end

section
/-! The invariant is kept by everything a step can do (10_state R18, 20_memory R47, 42_encoder R123, R124). -/

namespace Sys2Proof.Machine

/-- The invariant does not speak of the registers, the draws, the inputs and the observations. -/
theorem Inv.frame {s : State} (h : Inv s) (cr : ColorRegs) (draw : Nat) (env : Env) (obs : Obs) :
    Inv { s with cr := cr, draw := draw, env := env, obs := obs } :=
  ⟨h.memory, h.config, h.lineItems, h.txBusy, h.idleNotBusy, h.encNotBusy, h.notIdleReady, h.idleLine, h.frameIsWave⟩

theorem Inv.pixWf {s : State} (h : Inv s) : pixWf s.cfg.length s.pix = true := (Bool.and_eq_true_iff.mp h.memory).1

theorem Inv.waveWf {s : State} (h : Inv s) : waveWf (nitems s.cfg) s.wave = true :=
  (Bool.and_eq_true_iff.mp h.memory).2

/-- A command that writes PIX only has but its canonical form to keep. -/
theorem Inv.withPix {s : State} (h : Inv s) {m : Cells Color} (hm : Machine.pixWf s.cfg.length m = true) :
    Inv { s with pix := m } :=
  { h with memory := Bool.and_eq_true_iff.mpr ⟨hm, h.waveWf⟩ }

theorem Inv.pixelStore {s : State} (h : Inv s) (idx : PixIdx) (c : Color) : Inv (pixelStore idx c s) := by
  rcases pixelStore_cases idx c s with ⟨hlt, hp⟩ | ⟨-, hp⟩ <;> rw [hp]
  · exact h.withPix (pixWf_pixWrite hlt c h.pixWf)
  · exact h

theorem Inv.notBusy_of_idle {s : State} (h : Inv s) (hidle : s.ph = .idle) (hready : PeripheralReady s) :
    s.busy ≠ true := by
  simp [h.idleNotBusy hidle hready]

/-- DESTROY is accepted in PH = IDLE, where after a clean set-up nothing is in flight; it empties WAVE. -/
theorem Inv.destroy {s : State} (h : Inv s) (hidle : s.ph = .idle) : Inv (loseContents { s with live := false }) :=
  { h with
    memory := Bool.and_eq_true_iff.mpr ⟨pixWf_pixFill _ _, rfl⟩
    lineItems := nofun
    notIdleReady := fun hne => absurd hidle hne
    frameIsWave := fun hready hbusy => absurd hbusy (h.notBusy_of_idle hidle hready) }

/-- An accepted SHOW goes to PH = WAIT (41_strip R104). -/
theorem Inv.waits {s : State} (h : Inv s) (hacc : ShowAccepted s) : Inv (callWaitIdle (setPhase .wait s)) :=
  { h with
    txBusy := nofun
    idleNotBusy := nofun
    encNotBusy := nofun
    notIdleReady := fun _ => ⟨hacc.1, hacc.2.1, hacc.2.2.1⟩ }

/-- The hand-off of a live strip puts in flight what MKWAVE wrote, nothing of it driven yet (42_encoder R128). -/
theorem inv_shown {s : State} (hpix : pixWf s.cfg.length s.pix = true) (hcfg : s.cfg.wellFormed = true)
    (hready : s.live = true ∧ s.status.allocFail = false ∧ PeripheralReady s) : Inv (shown s) where
  memory := Bool.and_eq_true_iff.mpr ⟨hpix, waveWf_cellsFrom (length_encodeFrame s.cfg s.pix).le⟩
  config := hcfg
  lineItems _ he := eq_zeroItem_or_oneItem_of_mem_encodeFrame (mem_cellsFrom he).2.2
  txBusy _ := rfl
  idleNotBusy := nofun
  encNotBusy := nofun
  notIdleReady _ := hready
  idleLine _ := nofun
  frameIsWave _ _ := ⟨waveRead_mkwave s, Nat.zero_le _⟩

theorem Inv.shown {s : State} (h : Inv s) (hne : s.ph ≠ .idle) : Inv (shown s) :=
  inv_shown h.pixWf h.config (h.notIdleReady hne)

theorem Inv.showDone {s : State} (h : Inv s) (hacc : ShowAccepted s) : Inv (showDone s) :=
  inv_shown h.pixWf h.config ⟨hacc.1, hacc.2.1, hacc.2.2.1⟩

/-- Every command keeps the invariant. -/
theorem Inv.exec {i : Instr} {s t : State} (h : Inv s) (ht : exec i s = .next t) : Inv t := by
  rcases exec_cases ht with ⟨-, -, -, cd, c, -, rfl⟩ | ⟨-, -, -, -, v, rfl⟩ | ⟨-, -, idx, c, rfl⟩ | ⟨-, -, rfl⟩ |
    ⟨-, hacc, -, -, rfl⟩ | ⟨-, hacc, -, rfl⟩ | ⟨-, hacc, rfl⟩ | ⟨-, -, rfl⟩
  · exact h.frame _ _ _ _
  · exact h.frame _ _ _ _
  · exact h.pixelStore idx c
  · exact h.withPix (pixWf_pixClear h.pixWf)
  · exact h.waits hacc
  · exact h.showDone hacc
  · exact h.destroy hacc.2
  · exact h.frame _ _ _ _

/-- The peripheral counts as ready after a construction only if its set-up did not fail. -/
theorem setupFailed_of_ready {a : ConstructArgs} {s : State} (h : PeripheralReady (construct a s)) :
    ConstructArgs.setupFailed a = false := by
  simpa [PeripheralReady, construct_status, ConstructArgs.setupFailed] using h

/-- A construction with legal parameters establishes the invariant, whatever fails in it and whatever stood before. -/
theorem inv_construct {a : ConstructArgs} (s : State) (hcfg : a.cfg.wellFormed = true) : Inv (construct a s) where
  memory := by
    rw [Memory.wf, construct_pix, construct_wave, construct_cfg]
    split
    · rw [pixWf_pixFill]
      rfl
    · rfl
  config := by rwa [construct_cfg]
  lineItems := by simp [construct_wave]
  txBusy := by simp [construct_ph]
  idleNotBusy _ hready := by rw [construct_busy, setupFailed_of_ready hready]; rfl
  encNotBusy := by simp [construct_ph]
  notIdleReady hne := absurd (construct_ph a s) hne
  idleLine hready _ := by
    rw [construct_inflight, construct_emitPos, construct_line, setupFailed_of_ready hready]
    exact ⟨rfl, rfl, rfl⟩
  frameIsWave hready hbusy := by
    rw [construct_busy, setupFailed_of_ready hready] at hbusy
    cases hbusy

/-- A turn of the peripheral drives a phase of the frame, which leaves the frame, or ends it. -/
theorem Inv.peripheralTurn {s : State} (h : Inv s) : Inv (peripheralTurn s) := by
  rcases peripheralTurn_cases s with ⟨-, hp⟩ | ⟨hbusy, p, hphase, hp⟩ | ⟨-, -, hp⟩ <;> rw [hp]
  · exact h
  · have hpos : s.emitPos < 2 * s.inflight.length := by
      rw [← Nat.not_le, ← phaseAt_eq_none, hphase]
      exact nofun
    exact
      { h with
        idleLine := fun _ hnot => absurd (hbusy.symm.trans hnot) nofun
        frameIsWave := fun hready _ => ⟨(h.frameIsWave hready hbusy).1, hpos⟩ }
  · exact
      { h with
        txBusy := fun htx => by cases hph : s.ph <;> simp [hph, phAfterCompletion] at htx
        idleNotBusy := fun _ _ => rfl
        encNotBusy := fun _ => rfl
        notIdleReady := fun hne => h.notIdleReady fun hidle => hne (by rw [complete_ph, hidle]; rfl)
        idleLine := fun _ _ => ⟨rfl, rfl, rfl⟩
        frameIsWave := fun _ => nofun }

/-- A waiting SHOW keeps the invariant, whether it goes on waiting or completes. -/
theorem Inv.showWait {s t : State} (h : Inv s) (hwait : s.ph = .wait) (ht : showWait s = .next t) : Inv t := by
  rcases showWait_next.mp ht with ⟨-, -, rfl⟩ | ⟨-, -, hshow⟩
  · exact h
  · obtain ⟨-, -, -, rfl⟩ := showEncode_next.mp hshow
    exact inv_shown h.pixWf h.config (h.notIdleReady (by simp [hwait]))

theorem Inv.showEncode {s t : State} (h : Inv s) (henc : s.ph = .enc) (ht : showEncode s = .next t) : Inv t := by
  obtain ⟨-, -, -, rfl⟩ := showEncode_next.mp ht
  exact h.shown (by simp [henc])

/-- Settles O3: whatever `step_cases` finds the step to be, it keeps the invariant. -/
theorem stepKeepsInvariant : Obligations.StepKeepsInvariant := by
  intro s t h ht
  have hturn : Inv (endTurn s) := h.frame _ _ _ _
  have hpop : ∀ rest, Inv (portPopped rest s) := fun rest => h.frame _ _ _ _
  rcases step_cases ht with ⟨-, rfl⟩ | ⟨-, hwait, hshow⟩ | ⟨-, henc, hshow⟩ | ⟨-, -, -, rfl⟩ |
    ⟨-, -, w, rest, i, -, -, hexec⟩ | ⟨-, -, a, rest, -, -, hcfg, rfl⟩
  · exact hturn.peripheralTurn
  · exact hturn.showWait hwait hshow
  · exact hturn.showEncode henc hshow
  · exact hturn
  · exact (hpop rest).exec hexec
  · exact inv_construct _ hcfg

/-- Settles O2: the state right after reset is what a clean construction leaves. -/
theorem resetMeetsInvariant : Obligations.ResetMeetsInvariant := by
  unfold Obligations.ResetMeetsInvariant
  rw [reset_eq_construct]
  exact inv_construct _ (by decide)

end Sys2Proof.Machine
end

section
/-! Decoding what was encoded, and the rows of match and mask words (30_encoding R65 to R68). -/

namespace Sys2Proof

/-! The channel immediates read back from `IMM` (R66). -/

theorem extract_immRgbw (r g b w : Byte) :
    (immRgbw r g b w).extractLsb' 24 8 = r ∧ (immRgbw r g b w).extractLsb' 16 8 = g ∧
      (immRgbw r g b w).extractLsb' 8 8 = b ∧ (immRgbw r g b w).extractLsb' 0 8 = w :=
  Machine.packUnpackInverse.1 ⟨r, g, b, w⟩

theorem extract_immByte (v : Byte) : (immByte v).extractLsb' 8 24 = 0 ∧ (immByte v).extractLsb' 0 8 = v := by
  revert v
  decide

/-- The fields of a command decode to it: each row's test of `OP` is the first that holds, and the fields its format does
not use are zero. -/
theorem decodeFields_encodeFields (i : Instr) : decodeFields (encodeFields i) = .ok i := by
  cases i with
  | csetrgbw cd r g b w =>
    simp [encodeFields, decodeFields, fieldsC, ifUnusedZero, Fields.zeroImm, Fields.zeroC, Fields.immR, Fields.immG,
      Fields.immB, Fields.immW, extract_immRgbw]
  | setpixrgbw idx r g b w =>
    simp [encodeFields, decodeFields, fieldsP, ifUnusedZero, Fields.zeroPixImm, Fields.immR, Fields.immG,
      Fields.immB, Fields.immW, extract_immRgbw]
  | csetcolor | cset32 | cget32 | cgetr | cgetg | cgetb | cgetw =>
    simp [encodeFields, decodeFields, fieldsC, ifUnusedZero, Fields.zeroImm, Fields.zeroTwoReg, Fields.zeroReg,
      Fields.zeroC]
  | csetr | csetg | csetb | csetw =>
    simp [encodeFields, decodeFields, fieldsC, ifUnusedZero, Fields.zeroByte, Fields.zeroC, Fields.immW,
      extract_immByte]
  | setpixc => simp [encodeFields, decodeFields, fieldsP, ifUnusedZero, Fields.zeroPixReg]
  | clear | showStrip | destroy | rdstat => rfl

/-- Settles O6: a word's fields are those it was put together from, and they decode to the command. -/
theorem decodeEncodeRoundTrip : Obligations.DecodeEncodeRoundTrip := by
  intro i
  rw [decode, encode, fieldsOf_wordOf, decodeFields_encodeFields]

/-- Settles O7 by `encode_of_decode`: the fields a format does not use are zero in the word as in the encoding. -/
theorem decodedWordIsItsEncoding : Obligations.DecodedWordIsItsEncoding := fun _ _ => encode_of_decode

/-! A word under the mask of a row: `OP` is the row's, and the fields that the row does not use are zero (R65). -/

section Mask

variable {f : Fields} {op : BitVec 8}

theorem and_ones {n : Nat} {m : BitVec n} (h : m = BitVec.allOnes n) (x : BitVec n) : x &&& m = x := by
  rw [h, BitVec.and_allOnes]

theorem extract_of_and_high {x : Word} (h : x &&& 0xffffff00 = 0) : x.extractLsb' 8 24 = 0 := by
  have hx : (x &&& 0xffffff00).extractLsb' 8 24 = 0 := by rw [h]; rfl
  rwa [BitVec.extractLsb'_and, show (0xffffff00 : Word).extractLsb' 8 24 = BitVec.allOnes 24 by decide,
    BitVec.and_allOnes] at hx

theorem zeroImm_of_mask (h : andFields f ⟨0xff, 0x0, 0x3, 0xf, 0xffff, 0x0⟩ = fieldsN op) :
    f.op = op ∧ f.zeroImm = true := by
  simp_all [andFields, fieldsN, Fields.zeroImm, Fields.zeroC, and_ones]

theorem zeroTwoReg_of_mask (h : andFields f ⟨0xff, 0x0, 0x0, 0xf, 0xffff, 0xffffffff⟩ = fieldsN op) :
    f.op = op ∧ f.zeroTwoReg = true := by
  simp_all [andFields, fieldsN, Fields.zeroTwoReg, Fields.zeroC, and_ones]

theorem zeroReg_of_mask (h : andFields f ⟨0xff, 0x0, 0x3, 0xf, 0xffff, 0xffffffff⟩ = fieldsN op) :
    f.op = op ∧ f.zeroReg = true := by
  simp_all [andFields, fieldsN, Fields.zeroReg, Fields.zeroC, and_ones]

theorem zeroByte_of_mask (h : andFields f ⟨0xff, 0x0, 0x3, 0xf, 0xffff, 0xffffff00⟩ = fieldsN op) :
    f.op = op ∧ f.zeroByte = true := by
  have himm := extract_of_and_high (congrArg Fields.imm h)
  simp_all [andFields, fieldsN, Fields.zeroByte, Fields.zeroC, and_ones]

theorem zeroPixReg_of_mask (h : andFields f ⟨0xff, 0x3, 0x0, 0xf, 0x0, 0xffffffff⟩ = fieldsN op) :
    f.op = op ∧ f.zeroPixReg = true := by
  simp_all [andFields, fieldsN, Fields.zeroPixReg, and_ones]

theorem zeroPixImm_of_mask (h : andFields f ⟨0xff, 0x3, 0x3, 0xf, 0x0, 0x0⟩ = fieldsN op) :
    f.op = op ∧ f.zeroPixImm = true := by
  simp_all [andFields, fieldsN, Fields.zeroPixImm, and_ones]

theorem zeroN_of_mask (h : andFields f ⟨0xff, 0x3, 0x3, 0xf, 0xffff, 0xffffffff⟩ = fieldsN op) :
    f.op = op ∧ f.zeroN = true := by
  simp_all [andFields, fieldsN, Fields.zeroN, and_ones]

end Mask

theorem fieldsOf_rowMatch (i : Instr) : fieldsOf (rowMatch i) = fieldsN (encodeFields i).op := by
  cases i with
  | csetrgbw => exact Laws.Row.match_of_csetrgbw
  | csetcolor => exact Laws.Row.match_of_csetcolor
  | cset32 => exact Laws.Row.match_of_cset32
  | cget32 => exact Laws.Row.match_of_cget32
  | csetr => exact Laws.Row.match_of_csetr
  | csetg => exact Laws.Row.match_of_csetg
  | csetb => exact Laws.Row.match_of_csetb
  | csetw => exact Laws.Row.match_of_csetw
  | cgetr => exact Laws.Row.match_of_cgetr
  | cgetg => exact Laws.Row.match_of_cgetg
  | cgetb => exact Laws.Row.match_of_cgetb
  | cgetw => exact Laws.Row.match_of_cgetw
  | setpixc => exact Laws.Row.match_of_setpixc
  | setpixrgbw => exact Laws.Row.match_of_setpixrgbw
  | clear => exact Laws.Row.match_of_clear
  | showStrip => exact Laws.Row.match_of_showStrip
  | destroy => exact Laws.Row.match_of_destroy
  | rdstat => exact Laws.Row.match_of_rdstat

/-- The fields that the row of a command does not use are zero (R65). -/
def unusedZero (f : Fields) : Instr → Bool
  | .csetrgbw .. | .cset32 .. => f.zeroImm
  | .csetcolor .. => f.zeroTwoReg
  | .cget32 .. | .cgetr .. | .cgetg .. | .cgetb .. | .cgetw .. => f.zeroReg
  | .csetr .. | .csetg .. | .csetb .. | .csetw .. => f.zeroByte
  | .setpixc .. => f.zeroPixReg
  | .setpixrgbw .. => f.zeroPixImm
  | .clear | .showStrip | .destroy | .rdstat => f.zeroN

theorem unusedZero_of_and_rowMask {w : CmdWord} {i : Instr} (h : w &&& rowMask i = rowMatch i) :
    (fieldsOf w).op = (encodeFields i).op ∧ unusedZero (fieldsOf w) i = true := by
  have row : ∀ {m}, fieldsOf (rowMask i) = m → andFields (fieldsOf w) m = fieldsN (encodeFields i).op := by
    rintro m rfl
    rw [← fieldsOf_rowMatch, ← and_eq_iff, h]
  cases i with
  | csetrgbw | cset32 => exact zeroImm_of_mask (row Laws.Row.mask_imm)
  | csetcolor => exact zeroTwoReg_of_mask (row Laws.Row.mask_two)
  | cget32 | cgetr | cgetg | cgetb | cgetw => exact zeroReg_of_mask (row Laws.Row.mask_reg)
  | csetr | csetg | csetb | csetw => exact zeroByte_of_mask (row Laws.Row.mask_byte)
  | setpixc => exact zeroPixReg_of_mask (row Laws.Row.mask_pixreg)
  | setpixrgbw => exact zeroPixImm_of_mask (row Laws.Row.mask_piximm)
  | clear | showStrip | destroy | rdstat => exact zeroN_of_mask (row Laws.Row.mask_none)

/-- Fields with a row's opcode and zeros where the row uses none decode to a command of the row. -/
theorem decodeFields_of_unusedZero {f : Fields} {i : Instr} (hop : f.op = (encodeFields i).op)
    (hzero : unusedZero f i = true) : ∃ j, decodeFields f = .ok j ∧ rowMatch j = rowMatch i := by
  cases i <;> rw [unusedZero] at hzero <;>
    simp [decodeFields, hop, hzero, encodeFields, fieldsC, fieldsP, fieldsN, ifUnusedZero, rowMatch]

/-- A word that matches a command's row decodes to a command of that row. -/
theorem decode_of_and_rowMask {w : CmdWord} {i : Instr} (h : w &&& rowMask i = rowMatch i) :
    ∃ j, decode w = .ok j ∧ rowMatch j = rowMatch i := by
  obtain ⟨hop, hzero⟩ := unusedZero_of_and_rowMask h
  exact decodeFields_of_unusedZero hop hzero

/-- The match word of a row determines its mask word: no two rows of the table have one match word. -/
theorem rowMask_eq_of_rowMatch_eq {i j : Instr} (h : rowMatch i = rowMatch j) : rowMask i = rowMask j := by
  have lookup : ∀ i, opcodeRows.lookup (rowMatch i) = some (rowMask i) := fun i => by cases i <;> rfl
  exact Option.some.inj (by rw [← lookup, ← lookup, h])

theorem decode_row_iff {w : CmdWord} {i : Instr} :
    (∃ j, decode w = .ok j ∧ rowMatch j = rowMatch i) ↔ w &&& rowMask i = rowMatch i := by
  refine ⟨?_, decode_of_and_rowMask⟩
  rintro ⟨j, hj, hrow⟩
  rw [← hrow, ← rowMask_eq_of_rowMatch_eq hrow]
  exact and_rowMask_of_decode hj

theorem exists_instr_of_mem_opcodeRows {row : CmdWord × CmdWord} (h : row ∈ opcodeRows) :
    ∃ i, row = (rowMatch i, rowMask i) := by
  have rows : opcodeRows = [Instr.csetrgbw .c0 0 0 0 0, .csetcolor .c0 .c0, .cset32 .c0 0, .cget32 .c0, .csetr .c0 0,
      .csetg .c0 0, .csetb .c0 0, .csetw .c0 0, .cgetr .c0, .cgetg .c0, .cgetb .c0, .cgetw .c0, .setpixc 0 .c0,
      .setpixrgbw 0 0 0 0 0, .clear, .showStrip, .destroy, .rdstat].map (fun i => (rowMatch i, rowMask i)) := rfl
  rw [rows] at h
  obtain ⟨i, -, hi⟩ := List.mem_map.mp h
  exact ⟨i, hi.symm⟩

/-- Settles O8: a word matches a row exactly when it decodes to a command of it (`decode_row_iff`); a word decodes to one
command, so it matches one row. -/
theorem decodeFollowsMatchAndMask : Obligations.DecodeFollowsMatchAndMask := by
  refine ⟨fun w i => decode_row_iff, row_mem_opcodeRows, fun w => ⟨?_, ?_⟩, fun w row row' hmem hmem' h h' => ?_⟩
  · rintro ⟨row, hmem, h⟩
    obtain ⟨i, rfl⟩ := exists_instr_of_mem_opcodeRows hmem
    obtain ⟨j, hj, -⟩ := decode_of_and_rowMask h
    exact ⟨j, hj⟩
  · rintro ⟨i, hi⟩
    exact ⟨_, row_mem_opcodeRows i, and_rowMask_of_decode hi⟩
  · obtain ⟨i, rfl⟩ := exists_instr_of_mem_opcodeRows hmem
    obtain ⟨i', rfl⟩ := exists_instr_of_mem_opcodeRows hmem'
    obtain ⟨j, hj, hrow⟩ := decode_of_and_rowMask h
    obtain ⟨j', hj', hrow'⟩ := decode_of_and_rowMask h'
    cases Except.ok.inj (hj.symm.trans hj')
    have hmatch : rowMatch i = rowMatch i' := hrow.symm.trans hrow'
    rw [hmatch, rowMask_eq_of_rowMatch_eq hmatch]

/-- Settles O10: the words written out in 95_test_vectors, each evaluated. -/
theorem writtenWordsDecode : Obligations.WrittenWordsDecode := by
  refine ⟨?_, ?_, ?_, ?_, ?_, ?_, ?_, ?_⟩ <;> decide

end Sys2Proof
end

section
/-! The assembler (30_encoding R71, R72): the word of each command as a number, numbers and operands, lines and listings. -/

namespace Sys2Proof

/-! The word of a command as a number. -/

theorem toNat_wordOf_fieldsC (op : BitVec 8) (cd cs : BitVec 2) (imm : Word) :
    (wordOf (fieldsC op cd cs imm)).toNat = op.toNat * 2 ^ 56 + cd.toNat * 2 ^ 54 + cs.toNat * 2 ^ 52 + imm.toNat := by
  simp [toNat_wordOf, fieldsC]

theorem toNat_wordOf_fieldsP (op : BitVec 8) (cs : BitVec 2) (idx : PixIdx) (imm : Word) :
    (wordOf (fieldsP op cs idx imm)).toNat =
      op.toNat * 2 ^ 56 + idx.toNat * 2 ^ 32 + cs.toNat * 2 ^ 52 + imm.toNat := by
  simp only [toNat_wordOf, fieldsP, BitVec.ofNat_eq_ofNat, BitVec.toNat_ofNat, Nat.zero_mod]
  omega

theorem toNat_cregCode_cregOfNat {n : Nat} (h : n < 4) : (cregCode (cregOfNat n)).toNat = n := by
  rw [cregOfNat, cregCode_cregOf, BitVec.toNat_ofNat, Nat.mod_eq_of_lt h]

theorem toNat_byte {n : Nat} (h : n < 256) : (BitVec.ofNat 8 n).toNat = n := Nat.mod_eq_of_lt h

theorem toNat_index {n : Nat} (h : n < 65536) : (BitVec.ofNat 16 n).toNat = n := Nat.mod_eq_of_lt h

theorem toNat_packed {n : Nat} (h : n < 2 ^ 32) : (BitVec.ofNat 32 n).toNat = n := Nat.mod_eq_of_lt h

/-- A command has a word exactly when its operands are in range, and the word is known by its number. -/
theorem assemble_eq_ite {a : Asm} {p : Prop} [Decidable p] {n : Nat} (hrange : a.wellFormed = true ↔ p)
    (hword : p → (encode (asmInstr a)).toNat = n) :
    assemble a = if p then some (BitVec.ofNat 64 n) else none := by
  by_cases hp : p
  · rw [assemble, if_pos (hrange.mpr hp), if_pos hp, ← hword hp, BitVec.ofNat_toNat, BitVec.setWidth_eq]
  · rw [assemble, if_neg (mt hrange.mp hp), if_neg hp]

section Words

variable (idx cd cs r g b w packed : Nat)

theorem assemble_csetrgbw : assemble (.csetrgbw cd r g b w) =
    if cd < 4 ∧ r < 256 ∧ g < 256 ∧ b < 256 ∧ w < 256 then
      some (BitVec.ofNat 64 (0x01 * 2 ^ 56 + cd * 2 ^ 54 + r * 2 ^ 24 + g * 2 ^ 16 + b * 2 ^ 8 + w)) else none := by
  refine assemble_eq_ite (by simp [Asm.wellFormed, regOk, byteOk, and_assoc]) ?_
  rintro ⟨hcd, hr, hg, hb, hw⟩
  simp only [encode, asmInstr, encodeFields, toNat_wordOf_fieldsC, toNat_immRgbw, toNat_cregCode_cregOfNat hcd, toNat_byte hr,
    toNat_byte hg, toNat_byte hb, toNat_byte hw, BitVec.ofNat_eq_ofNat, BitVec.toNat_ofNat]
  omega

theorem assemble_csetcolor : assemble (.csetcolor cd cs) =
    if cd < 4 ∧ cs < 4 then some (BitVec.ofNat 64 (0x02 * 2 ^ 56 + cd * 2 ^ 54 + cs * 2 ^ 52)) else none := by
  refine assemble_eq_ite (by simp [Asm.wellFormed, regOk]) ?_
  rintro ⟨hcd, hcs⟩
  simp [encode, asmInstr, encodeFields, toNat_wordOf_fieldsC, toNat_cregCode_cregOfNat hcd, toNat_cregCode_cregOfNat hcs]

theorem assemble_cset32 : assemble (.cset32 cd packed) =
    if cd < 4 ∧ packed < 2 ^ 32 then some (BitVec.ofNat 64 (0x03 * 2 ^ 56 + cd * 2 ^ 54 + packed)) else none := by
  refine assemble_eq_ite (by simp [Asm.wellFormed, regOk, packedOk]) ?_
  rintro ⟨hcd, hpacked⟩
  simp [encode, asmInstr, encodeFields, toNat_wordOf_fieldsC, toNat_cregCode_cregOfNat hcd, toNat_packed hpacked]

/-- A getter names one register; `n` is its opcode. -/
theorem assemble_register {cd n : Nat} {a : Asm} {op : BitVec 8} (hop : op.toNat = n)
    (hrange : a.wellFormed = regOk cd)
    (hfields : encodeFields (asmInstr a) = fieldsC op (cregCode (cregOfNat cd)) 0 0) :
    assemble a = if cd < 4 then some (BitVec.ofNat 64 (n * 2 ^ 56 + cd * 2 ^ 54)) else none := by
  refine assemble_eq_ite (by simp [hrange, regOk]) fun hcd => ?_
  simp [encode, hfields, toNat_wordOf_fieldsC, toNat_cregCode_cregOfNat hcd, hop]

/-- A channel setter names one register and one byte; `n` is its opcode. -/
theorem assemble_register_byte {cd v n : Nat} {a : Asm} {op : BitVec 8} (hop : op.toNat = n)
    (hrange : a.wellFormed = (regOk cd && byteOk v))
    (hfields : encodeFields (asmInstr a) = fieldsC op (cregCode (cregOfNat cd)) 0 (immByte (BitVec.ofNat 8 v))) :
    assemble a = if cd < 4 ∧ v < 256 then some (BitVec.ofNat 64 (n * 2 ^ 56 + cd * 2 ^ 54 + v)) else none := by
  refine assemble_eq_ite (by simp [hrange, regOk, byteOk]) ?_
  rintro ⟨hcd, hv⟩
  simp [encode, hfields, toNat_wordOf_fieldsC, toNat_immByte, toNat_cregCode_cregOfNat hcd, toNat_byte hv, hop,
    -BitVec.toNat_ofNat]

theorem assemble_setpixc : assemble (.setpixc idx cs) =
    if idx < 65536 ∧ cs < 4 then some (BitVec.ofNat 64 (0x10 * 2 ^ 56 + idx * 2 ^ 32 + cs * 2 ^ 52)) else none := by
  refine assemble_eq_ite (by simp [Asm.wellFormed, regOk, idxOk]) ?_
  rintro ⟨hidx, hcs⟩
  simp [encode, asmInstr, encodeFields, toNat_wordOf_fieldsP, toNat_cregCode_cregOfNat hcs, Nat.mod_eq_of_lt hidx]

theorem assemble_setpixrgbw : assemble (.setpixrgbw idx r g b w) =
    if idx < 65536 ∧ r < 256 ∧ g < 256 ∧ b < 256 ∧ w < 256 then
      some (BitVec.ofNat 64 (0x11 * 2 ^ 56 + idx * 2 ^ 32 + r * 2 ^ 24 + g * 2 ^ 16 + b * 2 ^ 8 + w)) else none := by
  refine assemble_eq_ite (by simp [Asm.wellFormed, idxOk, byteOk, and_assoc]) ?_
  rintro ⟨hidx, hr, hg, hb, hw⟩
  simp only [encode, asmInstr, encodeFields, toNat_wordOf_fieldsP, toNat_immRgbw, toNat_index hidx, toNat_byte hr,
    toNat_byte hg, toNat_byte hb, toNat_byte hw, BitVec.ofNat_eq_ofNat, BitVec.toNat_ofNat]
  omega

end Words

/-- A command with its operands in range has a word, which decodes to it. -/
theorem decode_assemble {a : Asm} (h : a.wellFormed = true) : ∃ w, assemble a = some w ∧ decode w = .ok (asmInstr a) :=
  ⟨encode (asmInstr a), if_pos h, decodeEncodeRoundTrip _⟩

namespace Machine

/-! Numbers and operands. -/

theorem number_decimal {cs : List Char} (hne : cs ≠ []) (h : ∀ c ∈ cs, c ∈ decimalDigits) :
    number cs = some (valueIn decimalDigits cs) := by
  have hx : 'x' ∉ decimalDigits := by decide
  rw [← digits_decimal h]
  unfold number
  split
  · exact absurd rfl hne
  · exact absurd (h 'x' (by simp)) hx
  · rfl

theorem number_hexAnyCase {cs : List Char} (hne : cs ≠ []) (h : ∀ c ∈ cs, c ∈ hexDigits ++ lowerHexDigits) :
    number ('0' :: 'x' :: cs) = some (valueIn hexDigits (cs.map Char.toUpper)) := by
  rw [← digits_hex h]
  cases cs with
  | nil => exact absurd rfl hne
  | cons c cs => rfl

/-- The hexadecimal digits as the spec's listings write them are in upper case already. -/
theorem map_toUpper_hexDigits {cs : List Char} (h : ∀ c ∈ cs, c ∈ hexDigits) : cs.map Char.toUpper = cs := by
  rw [List.map_congr_left (g := id) fun c hc => (digitValue_hex (h c hc)).1, List.map_id]

theorem number_hex {cs : List Char} (hne : cs ≠ []) (h : ∀ c ∈ cs, c ∈ hexDigits) :
    number ('0' :: 'x' :: cs) = some (valueIn hexDigits cs) := by
  rw [number_hexAnyCase hne fun c hc => List.mem_append_left _ (h c hc), map_toUpper_hexDigits h]

/-- A number begins with no `c`, which is no decimal digit, so it is read as no register. -/
theorem operand_number {cs : List Char} {n : Nat} (h : number cs = some n) : operand cs = some (.num n) := by
  unfold operand
  split
  · cases h
  · cases h
  · rw [h]

/-! Lines and listings. -/

/-- What the assembler makes of a mnemonic and operands: the command they are written for, or nothing if there is none. -/
theorem asmOf_cases (m : List Char) (ops : List Operand) :
    (∃ a, asmOf m ops = some a ∧ m = (mnemonicOf a).toList ∧ ops = operandsOf a) ∨
      (asmOf m ops = none ∧ ∀ a, String.ofList m = mnemonicOf a → ops ≠ operandsOf a) := by
  unfold asmOf
  split
  case h_21 hcsetrgbw hcsetcolor hcset32 hcget32 hcsetr hcsetg hcsetb hcsetw hcgetr hcgetg hcgetb hcgetw
      hsetpixc hsetpixrgbw hclear hshowStrip hdestroy hrdstat hcsetrgb hsetpixrgb =>
    refine .inr ⟨rfl, fun a hm ho => ?_⟩
    cases a with
    | csetrgbw cd r g b w => exact hcsetrgbw cd r g b w hm ho
    | csetcolor cd cs => exact hcsetcolor cd cs hm ho
    | cset32 cd packed => exact hcset32 cd packed hm ho
    | cget32 cd => exact hcget32 cd hm ho
    | csetr cd v => exact hcsetr cd v hm ho
    | csetg cd v => exact hcsetg cd v hm ho
    | csetb cd v => exact hcsetb cd v hm ho
    | csetw cd v => exact hcsetw cd v hm ho
    | cgetr cd => exact hcgetr cd hm ho
    | cgetg cd => exact hcgetg cd hm ho
    | cgetb cd => exact hcgetb cd hm ho
    | cgetw cd => exact hcgetw cd hm ho
    | setpixc idx cs => exact hsetpixc idx cs hm ho
    | setpixrgbw idx r g b w => exact hsetpixrgbw idx r g b w hm ho
    | clear => exact hclear hm ho
    | showStrip => exact hshowStrip hm ho
    | destroy => exact hdestroy hm ho
    | rdstat => exact hrdstat hm ho
    | csetrgb cd r g b => exact hcsetrgb cd r g b hm ho
    | setpixrgb idx r g b => exact hsetpixrgb idx r g b hm ho
  all_goals
    rename_i hm
    exact .inl ⟨_, rfl, by rw [mnemonicOf, ← hm, String.toList_ofList], rfl⟩

/-- No two commands are written the same. -/
theorem asm_eq_of_text {a a' : Asm} (hm : mnemonicOf a = mnemonicOf a') (ho : operandsOf a = operandsOf a') :
    a = a' := by
  cases a <;> cases a' <;> simp_all [mnemonicOf, operandsOf]

theorem asmOf_eq_some_iff {m : List Char} {ops : List Operand} {a : Asm} :
    asmOf m ops = some a ↔ m = (mnemonicOf a).toList ∧ ops = operandsOf a := by
  rcases asmOf_cases m ops with ⟨a', h, hm, ho⟩ | ⟨hnone, hother⟩
  · rw [h, Option.some.injEq]
    constructor
    · rintro rfl
      exact ⟨hm, ho⟩
    · rintro ⟨hm', ho'⟩
      exact asm_eq_of_text (String.toList_injective (hm.symm.trans hm')) (ho.symm.trans ho')
  · rw [hnone]
    refine ⟨nofun, ?_⟩
    rintro ⟨rfl, ho⟩
    exact absurd ho (hother a String.ofList_toList)

/-- A line that is no construction is read as the command of its mnemonic and its operands. -/
theorem lineOf_command {m : List Char} (hm : m ≠ ".construct".toList) (ops : Option (List Operand)) :
    lineOf m ops = (ops.bind (asmOf m)).map .command := by
  cases ops with
  | none => rfl
  | some ops => exact if_neg fun h => hm (by rw [← h, String.toList_ofList])

theorem parseLine_comment (text comment : List Char) : parseLine (text ++ ';' :: comment) = parseLine text := by
  rw [parseLine, dropComment_append, parseLine]

theorem parseLine_construct {p l c : List Char} {pin channel : Operand} {length : Nat} (hp : isWord p = true)
    (hl : isWord l = true) (hc : isWord c = true) (hpin : operand p = some pin) (hlen : operand l = some (.num length))
    (hchan : operand c = some channel) :
    parseLine (".construct".toList ++ ' ' :: commaText [p, l, c]) = some (.construct pin length channel) := by
  have hwords : ∀ x ∈ [p, l, c], isWord x = true := by simp [hp, hl, hc]
  have hops : [p, l, c].mapM operand = some [pin, .num length, channel] := by simp [hpin, hlen, hchan]
  rw [parseLine_words (by decide) hwords, hops, lineOf, if_pos String.ofList_toList]

/-- Settles O12: the word of each command as a number, then the texts: numbers, operands, lines and listings. -/
theorem assembledWordDecodes : Obligations.AssembledWordDecodes := by
  refine ⟨fun a => ⟨decode_assemble, fun h => if_neg (by simp [h])⟩, assemble_csetrgb, assemble_setpixrgb, assemble_csetrgbw,
    assemble_csetcolor, assemble_cset32, fun cd => assemble_register rfl rfl rfl,
    fun cd v => assemble_register_byte rfl rfl rfl, fun cd v => assemble_register_byte rfl rfl rfl,
    fun cd v => assemble_register_byte rfl rfl rfl, fun cd v => assemble_register_byte rfl rfl rfl,
    fun cd => assemble_register rfl rfl rfl, fun cd => assemble_register rfl rfl rfl,
    fun cd => assemble_register rfl rfl rfl, fun cd => assemble_register rfl rfl rfl, assemble_setpixc,
    assemble_setpixrgbw, by decide, by decide, by decide, by decide, fun cs => number_decimal, fun cs => number_hex,
    fun cs => number_hexAnyCase, fun cs n => operand_number, by decide, fun m ops a => asmOf_eq_some_iff,
    fun m texts hm htexts hne => ?_, fun m hm hne => ?_, parseLine_space, parseLine_comment,
    fun p l c pin channel length => parseLine_construct, fun text a h => ?_, fun text texts pin channel length h => ?_,
    fun text texts a h => ?_, fun text texts h => ?_, rfl, rfl, rfl⟩
  · rw [parseLine_words hm htexts, lineOf_command hne]
  · rw [parseLine_word hm, lineOf_command hne]
    rfl
  · rw [assembleLine, h]
  · simp [assembleLine, commandsOf, listingOf, h]
  · simp [commandsOf, listingOf, h]
  · simp [commandsOf, listingOf, h]

end Machine

end Sys2Proof
end

section
/-! Acceptance and the frames of the commands (41_strip R100, R105, R106, R108; 40_color R80). -/

namespace Sys2Proof.Machine

/-- Settles O20: a Color command writes registers and responses only (`exec_color_frame`), and no register but its
destination. -/
theorem colorCommandsFrame : Obligations.ColorCommandsFrame := by
  intro i s t hi h
  have hframe := exec_color_frame hi h
  refine ⟨hframe, fun q hq => ?_, fun a => ?_, fun j => ?_⟩
  · rcases exec_cases h with ⟨-, -, -, cd, c, hdest, rfl⟩ | ⟨-, -, -, -, v, rfl⟩ | ⟨hc, -⟩ | ⟨rfl, -⟩ | ⟨rfl, -⟩ |
      ⟨rfl, -⟩ | ⟨rfl, -⟩ | ⟨rfl, -⟩
    · exact getReg_setReg_other (by rintro rfl; exact hq hdest) c s
    · exact getReg_respond q v s
    · cases hi.symm.trans hc
    all_goals cases hi
  · rw [hframe]
    rfl
  · rw [hframe]
    rfl

/-- Settles O31: the frame of every command but SHOW (`exec_not_show_frame`). -/
theorem onlyShowTouchesPeripheral : Obligations.OnlyShowTouchesPeripheral := by
  intro i s t h hi
  rw [exec_not_show_frame hi h]
  exact ⟨rfl, rfl, rfl, rfl, rfl, rfl, rfl, rfl, rfl⟩

/-- Settles O60: DESTROY loses the contents and clears LIVE, RDSTAT answers one word. -/
theorem destroyAndRdstatFrame : Obligations.DestroyAndRdstatFrame := by
  refine ⟨fun s t h => ?_, fun s t h => ?_⟩
  · obtain ⟨-, ht⟩ := whenAccepted_next.mp h
    cases ht
    rfl
  · obtain ⟨-, ht⟩ := whenAccepted_next.mp h
    cases ht
    exact ⟨rfl, fun _ => rfl, fun _ => rfl, fun _ => rfl⟩

/-! Acceptance (R100). -/

/-- A command that is not accepted is refused, for a reason of its row. -/
theorem exec_of_not_accepted {i : Instr} {s : State} (h : ¬AcceptedAs (classOf i) s) :
    ∃ r, exec i s = .refused r ∧ refusalOf (classOf i) s = some r := by
  obtain ⟨out, hout⟩ := exec_eq_whenAccepted i s
  obtain ⟨r, hr⟩ := Option.ne_none_iff_exists'.mp (mt (refusalOf_eq_none (classOf i) s).mp h)
  exact ⟨r, by rw [hout, whenAccepted, hr], hr⟩

/-- Every command but SHOW completes where it is accepted. -/
theorem exec_of_accepted {i : Instr} {s : State} (h : AcceptedAs (classOf i) s) (hi : i ≠ .showStrip) :
    ∃ t, exec i s = .next t := by
  have done : ∀ u, exec i s = whenAccepted (classOf i) s (.next u) → ∃ t, exec i s = .next t := fun u hu =>
    ⟨u, hu.trans (whenAccepted_of h _)⟩
  cases i with
  | showStrip => exact absurd rfl hi
  | _ => exact done _ rfl

/-- An accepted command is refused for one reason only: a SHOW whose finite timeout expires (93 U11). -/
theorem exec_accepted_refused {i : Instr} {s : State} {r : Refusal} (h : AcceptedAs (classOf i) s)
    (hr : exec i s = .refused r) : r = .finiteTimeout := by
  by_cases hi : i = .showStrip
  · subst hi
    rw [exec_showStrip_of h] at hr
    exact showWait_refused hr
  · obtain ⟨t, ht⟩ := exec_of_accepted h hi
    cases ht.symm.trans hr

/-- Settles O28: a command outside its row is refused by `refusalOf`, which never answers the expiry of a timeout; inside
its row only that expiry is left. -/
theorem acceptanceTable : Obligations.AcceptanceTable := by
  refine fun i s => ⟨⟨?_, fun h => ?_⟩, fun h hi => exec_of_accepted h hi, fun n hn => ?_⟩
  · rintro ⟨r, hr, hne⟩ h
    exact hne (exec_accepted_refused h hr)
  · obtain ⟨r, hr, hrow⟩ := exec_of_not_accepted h
    refine ⟨r, hr, ?_⟩
    rcases refusalOf_cases hrow with rfl | rfl | rfl | rfl | rfl <;> exact nofun
  · by_cases h : AcceptedAs (classOf i) s
    · cases exec_accepted_refused h hn
    · obtain ⟨r, hr, hrow⟩ := exec_of_not_accepted h
      cases hr.symm.trans hn
      rcases refusalOf_cases hrow with h | h | h | h | h <;> cases h

end Sys2Proof.Machine
end

section
/-! What a step runs (41_strip R100), and what changes the flags and the configuration (10_state R17, R19). -/

namespace Sys2Proof.Machine

theorem blockTurn_of_portFree {s : State} (h : PortIsFree s) : blockTurn s = acceptNext s := by
  rcases h with hp | hp <;> rw [blockTurn, hp]

/-- Settles O4: a turn of the block with a free port takes the input at its head (`step_takes_input`), if there is one. -/
theorem stepRunsDecodedCommand : Obligations.StepRunsDecodedCommand := by
  refine ⟨fun s w rest i ht hfree hport hi => ?_, fun s a rest ht hfree hport => step_takes_input ht hfree hport,
    fun s ht hfree hport => ?_, fun s => step_peripheral⟩
  · rw [step_takes_input ht hfree hport, hostInput, hostCommand, hi]
    rfl
  · rw [step_block ht, blockTurn_of_portFree (s := endTurn s) hfree, acceptNext, endTurn_env, hport]

/-- Settles O5: `withFetchWord` puts the word at the head of the port and the turn with it; taking both off leaves the
state itself. -/
theorem presentedWordRunsNext : Obligations.PresentedWordRunsNext := by
  intro s nbits w i hfree hi
  have hdecode : decode (BitVec.ofNat 64 (w % 2 ^ nbits)) = .ok i := by
    unfold decodeTableWord at hi
    split at hi
    · next j hj =>
      cases hi
      exact hj
    · cases hi
  exact stepRunsDecodedCommand.1 (s.withFetchWord nbits w) _ s.env.port i rfl hfree rfl hdecode

/-- No command changes the flags (10_state R19). -/
theorem exec_status {i : Instr} {s t : State} (h : exec i s = .next t) : t.status = s.status := by
  by_cases hi : i = .showStrip
  · subst hi
    obtain ⟨-, ⟨-, -, rfl⟩ | ⟨-, -, -, -, rfl⟩⟩ := execShow_next.mp h
    · rw [callWaitIdle_status, setPhase_status]
    · rw [showDone_status]
  · rw [exec_not_show_frame hi h]

/-- An event of the peripheral writes its own side, PH and the phases driven, and nothing else (42_encoder R129, R130). -/
theorem peripheralTurn_frame (s : State) : peripheralTurn s =
    { s with
      ph := (peripheralTurn s).ph
      busy := (peripheralTurn s).busy
      inflight := (peripheralTurn s).inflight
      line := (peripheralTurn s).line
      emitPos := (peripheralTurn s).emitPos
      obs := { s.obs with phases := (peripheralTurn s).obs.phases } } := by
  rcases peripheralTurn_cases s with ⟨-, hp⟩ | ⟨-, p, -, hp⟩ | ⟨-, -, hp⟩ <;> rw [hp] <;> rfl

/-- A SHOW that goes on changes neither. -/
theorem showEncode_status_cfg {s t : State} (h : showEncode s = .next t) : t.status = s.status ∧ t.cfg = s.cfg := by
  obtain ⟨-, -, -, rfl⟩ := showEncode_next.mp h
  exact ⟨rfl, rfl⟩

theorem showWait_status_cfg {s t : State} (h : showWait s = .next t) : t.status = s.status ∧ t.cfg = s.cfg := by
  rcases showWait_next.mp h with ⟨-, -, rfl⟩ | ⟨-, -, h⟩
  · exact ⟨rfl, rfl⟩
  · exact showEncode_status_cfg (s := setPhase .enc (consumeWaitAnswer s)) h

/-- Settles O30: of the cases of `step_cases` all but a construction keep the flags and the configuration, and a
construction is taken with LIVE = 0. -/
theorem flagsAndConfigChangeAtConstructionOnly : Obligations.FlagsAndConfigChangeAtConstructionOnly := by
  intro s t h hchange
  have kept : ¬(t.status = s.status ∧ t.cfg = s.cfg) := fun ⟨hs, hc⟩ => hchange.elim (· hs) (· hc)
  rcases step_cases h with ⟨-, rfl⟩ | ⟨-, -, hshow⟩ | ⟨-, -, hshow⟩ | ⟨-, -, -, rfl⟩ |
    ⟨-, -, w, rest, i, -, -, hexec⟩ | ⟨-, -, a, rest, hport, hlive, -, -⟩
  · rw [peripheralTurn_frame] at kept
    exact absurd ⟨rfl, rfl⟩ kept
  · exact absurd (showWait_status_cfg hshow) kept
  · exact absurd (showEncode_status_cfg hshow) kept
  · exact absurd ⟨rfl, rfl⟩ kept
  · exact absurd ⟨exec_status (s := portPopped rest s) hexec, exec_cfg (s := portPopped rest s) hexec⟩ kept
  · exact ⟨hlive, a, rest, hport⟩

end Sys2Proof.Machine
end

section
/-! What a construction leaves when something fails in it, and of the strip before it (70_reset R170, R171, R184). -/

namespace Sys2Proof.Machine

/-- Settles O57: the flags, DIAG and the calls of `construct`, whatever the four outcomes. -/
theorem constructionFlagsIndependent : Obligations.ConstructionFlagsIndependent := by
  refine fun a s => ⟨fun hlive hcfg => hostConstruct_next.mpr ⟨hlive, hcfg, rfl⟩, fun hlive hcfg => ?_, construct_status a s,
    construct_diag a s, construct_live a s, construct_ph a s, construct_cfg a s, ?_⟩
  · simp [hostConstruct, hlive, hcfg]
  · simp [construct_calls]

theorem getReg_construct {a : ConstructArgs} {s : State} (h : ConstructArgs.allocFailed a = false) (r : CReg) :
    getReg r (construct a s) = black :=
  getReg_eq_black (by simp [construct_cr, h]) r

theorem pixel_construct {a : ConstructArgs} {s : State} (h : ConstructArgs.allocFailed a = false) (i : Nat) :
    pixel i (construct a s) = black :=
  pixel_eq_black (by simp [construct_pix, h]) i

/-- SHOW is refused after a failed set-up of the peripheral (41_strip R100). -/
theorem exec_showStrip_not_ready {s : State} (hlive : s.live = true) (hidle : s.ph = .idle)
    (halloc : s.status.allocFail = false) (hready : s.status.cfgErr = true ∨ s.status.installErr = true) :
    exec .showStrip s = .refused .peripheralNotReady := by
  have hrow : refusalOf .showing s = some .peripheralNotReady := by
    rcases hready with h | h <;> simp [refusalOf, portFree, needsAlloc, needsPeripheral, hlive, hidle, halloc, h]
  obtain ⟨out, hout⟩ := exec_eq_whenAccepted .showStrip s
  rw [hout, whenAccepted, classOf, hrow]

/-- In IDLE, with no allocation failed, a live strip accepts every command but SHOW whatever became of the peripheral. -/
theorem acceptedAs_of_idle {s : State} (hlive : s.live = true) (hidle : s.ph = .idle)
    (halloc : s.status.allocFail = false) {i : Instr} (hi : i ≠ .showStrip) : AcceptedAs (classOf i) s := by
  cases i with
  | csetrgbw | csetcolor | cset32 | cget32 | csetr | csetg | csetb | csetw | cgetr | cgetg | cgetb | cgetw | setpixc
  | setpixrgbw | clear => exact ⟨hlive, halloc, .inl hidle⟩
  | showStrip => exact absurd rfl hi
  | destroy => exact ⟨hlive, hidle⟩
  | rdstat => exact ⟨hlive, .inl hidle⟩

/-- Settles O58: both arrays allocated, the contents are black and the strip lives in IDLE; the flag of the failed call
refuses SHOW and no other command. -/
theorem failedSetupLeavesPixelsUsable : Obligations.FailedSetupLeavesPixelsUsable := by
  intro a s hp hw hfail
  have hclean := allocFailed_eq_false hp hw
  have halloc : (construct a s).status.allocFail = false := by rw [construct_status, hclean]
  have hlive := construct_live a s
  have hidle := construct_ph a s
  refine ⟨getReg_construct hclean, pixel_construct hclean, hidle, hlive, exec_showStrip_not_ready hlive hidle halloc ?_,
    fun i hi => exec_of_accepted (acceptedAs_of_idle hlive hidle halloc hi) hi⟩
  simpa [construct_status] using hfail

/-- Two states with one construction agree in what the construction sets. -/
theorem construct_forgets (a : ConstructArgs) (s s' : State) :
    (construct a s').cfg = (construct a s).cfg ∧ (construct a s').status = (construct a s).status ∧
      (construct a s').ph = (construct a s).ph ∧ (construct a s').live = (construct a s).live ∧
      (construct a s').wave = (construct a s).wave ∧ (construct a s').emitPos = (construct a s).emitPos ∧
      (construct a s').obs.diag = (construct a s).obs.diag := by
  simp only [construct_cfg, construct_status, construct_ph, construct_live, construct_wave, construct_emitPos,
    construct_diag, and_self]

/-- With both arrays allocated they agree in the registers and PIX. -/
theorem construct_forgets_memory {a : ConstructArgs} (h : ConstructArgs.allocFailed a = false) (s s' : State) :
    (construct a s').cr = (construct a s).cr ∧ (construct a s').pix = (construct a s).pix := by
  simp [construct_cr, construct_pix, h]

/-- With the peripheral set up they agree in its side. -/
theorem construct_forgets_peripheral {a : ConstructArgs} (h : ConstructArgs.setupFailed a = false) (s s' : State) :
    (construct a s').busy = (construct a s).busy ∧ (construct a s').inflight = (construct a s).inflight ∧
      (construct a s').line = (construct a s).line := by
  simp [construct_busy, construct_inflight, construct_line, h]

/-- Settles O59: the fields a construction sets do not depend on the state it finds. -/
theorem reconstructionForgetsOldInstance : Obligations.ReconstructionForgetsOldInstance := by
  refine ⟨fun a s s' hlive hlive' hcfg => ?_, fun a s hlive => by simp [hostConstruct, hlive]⟩
  obtain ⟨hc, hstatus, hph, hl, hwave, hpos, hdiag⟩ := construct_forgets a s s'
  refine ⟨construct a s, construct a s', hostConstruct_next.mpr ⟨hlive, hcfg, rfl⟩,
    hostConstruct_next.mpr ⟨hlive', hcfg, rfl⟩, hc, hstatus, hph, hl, hwave, hpos, hdiag,
    fun hp hw => construct_forgets_memory (allocFailed_eq_false hp hw) s s',
    fun hcr hir => construct_forgets_peripheral (setupFailed_eq_false hcr hir) s s', fun hp hw hcr hir => ?_⟩
  obtain ⟨hregs, hpix⟩ := construct_forgets_memory (allocFailed_eq_false hp hw) s s'
  obtain ⟨hbusy, hinflight, hline⟩ := construct_forgets_peripheral (setupFailed_eq_false hcr hir) s s'
  rw [← hc, ← hstatus, ← hph, ← hl, ← hwave, ← hpos, ← hregs, ← hpix, ← hbusy, ← hinflight, ← hline]

end Sys2Proof.Machine
end

section
/-! MKWAVE as the loops of 42_encoder R120, the length of a frame and its duration (R124, R133), and a pixel on its way into
the frame (20_memory R47). -/

namespace Sys2Proof.Machine

/-! The loops write the items of the frame one after another. -/

/-- One write of the loops: the item at `j`, and `j` goes up by one (R120). -/
def writeItem (acc : Nat × Cells Item) (it : Item) : Nat × Cells Item := (acc.1 + 1, cellSet acc.1 it acc.2)

theorem loopPixel_eq_foldl (c : InstanceConfig) (pix : Cells Color) (acc : Nat × Cells Item) (p : Nat) :
    loopPixel c pix acc p = (encodePixel c (pixRead p pix)).foldl writeItem acc := by
  rw [encodePixel, List.foldl_flatMap]
  rfl

theorem mkwaveLoop_eq_foldl (c : InstanceConfig) (pix : Cells Color) (wave : Cells Item) :
    mkwaveLoop c pix wave = (encodeFrame c pix).foldl writeItem (0, wave) := by
  rw [mkwaveLoop, encodeFrame, List.foldl_flatMap]
  simp only [← loopPixel_eq_foldl]

/-- An entry below the writes stays at the head of the cells. -/
theorem foldl_writeItem_cons {a j : Nat} (h : a < j) (u : Item) (m : Cells Item) (items : List Item) :
    items.foldl writeItem (j, (a, u) :: m) =
      ((items.foldl writeItem (j, m)).1, (a, u) :: (items.foldl writeItem (j, m)).2) := by
  induction items generalizing j m with
  | nil => rfl
  | cons it items ih =>
    have hset : cellSet j it ((a, u) :: m) = (a, u) :: cellSet j it m := by
      rw [cellSet, if_neg (by omega), if_neg (by omega)]
    rw [List.foldl_cons, writeItem, hset, ih (by omega)]
    rfl

/-- A write below or at the first entry puts its own first and leaves the entries above it. -/
theorem cellSet_eq_cons {j : Nat} {m : Cells Item} (hrise : cellsRise j m = true) (it : Item) :
    ∃ m', cellSet j it m = (j, it) :: m' ∧ cellsRise (j + 1) m' = true ∧ ∀ e ∈ m', e ∈ m := by
  cases m with
  | nil => exact ⟨[], rfl, rfl, nofun⟩
  | cons e m =>
    obtain ⟨a, u⟩ := e
    simp only [cellsRise, Bool.and_eq_true, decide_eq_true_eq] at hrise
    obtain ⟨hle, hm⟩ := hrise
    rcases Nat.lt_or_eq_of_le hle with hlt | rfl
    · exact ⟨(a, u) :: m, by rw [cellSet, if_pos hlt], by simp [cellsRise, hm, Nat.succ_le_of_lt hlt], fun e he => he⟩
    · exact ⟨m, by simp [cellSet], hm, fun e he => List.mem_cons_of_mem _ he⟩

/-- Items written over every entry from `j` on leave nothing of the old content. -/
theorem foldl_writeItem {j : Nat} {m : Cells Item} (items : List Item) (hrise : cellsRise j m = true)
    (hlt : ∀ e ∈ m, e.1 < j + items.length) :
    items.foldl writeItem (j, m) = (j + items.length, cellsFrom j items) := by
  induction items generalizing j m with
  | nil =>
    cases m with
    | nil => rfl
    | cons e m =>
      have hlow : j ≤ e.1 := by
        simp only [cellsRise, Bool.and_eq_true, decide_eq_true_eq] at hrise
        exact hrise.1
      have hhigh := hlt e List.mem_cons_self
      rw [List.length_nil] at hhigh
      omega
  | cons it items ih =>
    obtain ⟨m', hset, hrise', hmem⟩ := cellSet_eq_cons hrise it
    have hlt' : ∀ e ∈ m', e.1 < j + 1 + items.length := fun e he => by
      have := hlt e (hmem e he)
      rw [List.length_cons] at this
      omega
    rw [List.foldl_cons, writeItem, hset, foldl_writeItem_cons (Nat.lt_succ_self j), ih hrise' hlt', List.length_cons,
      Nat.add_right_comm]
    rfl

/-- Settles O33: the loops write the frame's items one after another (`mkwaveLoop_eq_foldl`), over every entry of a
canonical WAVE (`foldl_writeItem`). -/
theorem mkwaveMatchesLoops : Obligations.MkwaveMatchesLoops := by
  intro s hwf
  obtain ⟨hrise, hlt⟩ := waveWf_iff.mp hwf
  rw [mkwaveLoop_eq_foldl, foldl_writeItem _ hrise (by simpa using hlt), length_encodeFrame, Nat.zero_add]
  rfl

/-! The length of a frame (R124). -/

/-- Settles O36: WAVE holds the items of the frame, NITEMS of them, and these go in flight. -/
theorem waveformLength : Obligations.WaveformLength := by
  refine ⟨fun s j => ?_, fun s t h hbusy => ?_⟩
  · rw [waveItem_mkwave, isSome_getElem?, length_encodeFrame, nitems]
  · obtain ⟨-, ⟨hb, -⟩ | ⟨-, -, -, -, rfl⟩⟩ := execShow_next.mp h
    · cases hbusy.symm.trans hb
    · exact ⟨by rw [showDone_inflight, length_encodeFrame, nitems], by rw [showDone_obs, nitems]⟩

/-! The duration of a frame (R133). -/

theorem frameTicks_cons (it : Item) (items : List Item) :
    frameTicks (it :: items) = it.duration0.toNat + it.duration1.toNat + frameTicks items := by
  simp [frameTicks, framePhases, itemPhases, Nat.add_assoc]

/-- Items of the line code last as long as their zero-bits and their one-bits. -/
theorem frameTicks_lineItems {c : InstanceConfig} (hne : zeroItem c ≠ oneItem c) {items : List Item}
    (h : ∀ it ∈ items, it = zeroItem c ∨ it = oneItem c) :
    frameTicks items =
      (items.length - items.countP (fun it => decide (it = oneItem c))) * (c.t0h.toNat + c.t0l.toNat) +
        items.countP (fun it => decide (it = oneItem c)) * (c.t1h.toNat + c.t1l.toNat) := by
  induction items with
  | nil => simp [frameTicks, framePhases]
  | cons it items ih =>
    have hrest := ih fun x hx => h x (List.mem_cons_of_mem _ hx)
    have hle : items.countP (fun it => decide (it = oneItem c)) ≤ items.length := List.countP_le_length
    rcases h it List.mem_cons_self with rfl | rfl
    · rw [frameTicks_cons, hrest, List.countP_cons_of_neg (by simpa using hne), List.length_cons, Nat.succ_sub hle,
        Nat.succ_mul]
      simp only [zeroItem]
      omega
    · rw [frameTicks_cons, hrest, List.countP_cons_of_pos (by simp), List.length_cons, Nat.add_sub_add_right, Nat.succ_mul]
      simp only [oneItem]
      omega

/-- Settles O40: a frame is made of the two items, which a legal configuration tells apart. -/
theorem frameDurationFormula : Obligations.FrameDurationFormula := by
  rintro c pix n1 hwf rfl
  rw [frameTicks_lineItems (zeroItem_ne_oneItem hwf) fun it => eq_zeroItem_or_oneItem_of_mem_encodeFrame,
    length_encodeFrame, nitems]

/-! A pixel on its way into the frame (20_memory R42, R47). -/

/-- Settles O41: SHOW encodes the PIX that the store left, and the pixel's bits stand where `waveItem_mkwave_bit` says. -/
theorem pixelWriteReachesNextFrame : Obligations.PixelWriteReachesNextFrame := by
  intro s t u idx r g b w bit hidx hbit ht hbusy hu
  obtain ⟨-, ht⟩ := whenAccepted_next.mp ht
  cases ht
  have hframe := pixelStore_frame idx (rgbw r g b w) s
  have hcfg : (pixelStore idx (rgbw r g b w) s).cfg = s.cfg := by rw [hframe]
  have hwave := wave_of_exec_showStrip hu (by rw [hframe]; exact hbusy)
  have item : ∀ c, c < 3 → waveItem (24 * idx.toNat + 8 * c + (7 - bit)) u =
      some (itemOf s.cfg ((if c = 0 then g else if c = 1 then r else b).getLsbD bit)) := by
    intro c hc
    have hitem := waveItem_mkwave_bit (s := pixelStore idx (rgbw r g b w) s) (p := idx.toNat) (by rw [hcfg]; exact hidx)
      hc (show 7 - bit < 8 by omega)
    rw [pixel_pixelStore_self hidx, hcfg, show 7 - (7 - bit) = bit by omega] at hitem
    rw [waveItem, hwave]
    exact hitem
  exact ⟨item 0 (by decide), item 1 (by decide), item 2 (by decide)⟩

end Sys2Proof.Machine
end

section
/-! SHOW (41_strip R104, R109): the one next state it has where the peripheral is idle, the wait where it is not, and what
both leave unchanged. -/

namespace Sys2Proof.Machine

/-- A peripheral that answers Ok takes the count of the frame too. -/
theorem count_accepted {c : InstanceConfig} (h : c.length ≠ 0 ∨ c.zeroCountTxOk = true) :
    ¬(nitems c = 0 ∧ c.zeroCountTxOk = false) := by
  rintro ⟨hzero, hrejects⟩
  rcases h with hlen | haccepts
  · exact nitems_ne_zero hlen hzero
  · cases hrejects.symm.trans haccepts

theorem exec_showStrip_done {s : State} (hacc : ShowAccepted s) (hbusy : s.busy = false) (hans : PeripheralAnswersOk s) :
    exec .showStrip s = .next (showDone s) := by
  obtain ⟨hwait, htx, hcount⟩ := hans
  exact execShow_next.mpr ⟨hacc, .inr ⟨hbusy, hwait, count_accepted hcount, htx, rfl⟩⟩

theorem State.eta (s : State) : s = ⟨s.cr, s.pix, s.wave, s.cfg, s.ph, s.status, s.live, s.busy, s.inflight, s.line,
    s.emitPos, s.draw, s.env, s.obs⟩ := rfl

/-- The state a SHOW leaves that finds the peripheral idle: what it writes, and everything else as it was. -/
theorem showDone_eq (s : State) : showDone s =
    { s with
      ph := .tx
      wave := cellsFrom 0 (encodeFrame s.cfg s.pix)
      busy := true
      inflight := encodeFrame s.cfg s.pix
      emitPos := 0
      env := { s.env with waitAnswers := s.env.waitAnswers.tail, txAnswers := s.env.txAnswers.tail }
      obs := { s.obs with
        diag := s.obs.diag ++ [.frameBits (nitems s.cfg)]
        frames := s.obs.frames ++ [encodeFrame s.cfg s.pix]
        calls := s.obs.calls ++
          [.waitIdle s.cfg.channel s.cfg.waitTimeout, .transmit s.cfg.channel (nitems s.cfg) false] } } := by
  rw [State.eta (showDone s), showDone_cr, showDone_pix, showDone_wave, showDone_cfg, showDone_ph, showDone_status,
    showDone_live, showDone_busy, showDone_inflight, showDone_line, showDone_emitPos, showDone_draw, showDone_env,
    showDone_obs]

/-- Settles O42: the state is that of `showDone_eq`, whose WAVE reads as the frame. -/
theorem showCompletesWhenPeripheralIdle : Obligations.ShowCompletesWhenPeripheralIdle := by
  intro s hacc hbusy hans
  have hdone := exec_showStrip_done hacc hbusy hans
  rw [showDone_eq] at hdone
  exact ⟨_, hdone, rfl, fun j => waveItem_mkwave j s, fun _ => rfl, rfl⟩

theorem waitTimesOut_forever {s : State} (h : s.cfg.waitTimeout = .forever) : waitTimesOut s = false := by
  rw [waitTimesOut, h]

/-- Settles O43: with BUSY = 1 SHOW waits, unless its finite timeout expires. -/
theorem showWaitsWhileBusy : Obligations.ShowWaitsWhileBusy := by
  refine fun s hacc hbusy => ⟨fun htime => ?_, waitTimesOut_forever, fun n rest htimeout hans => ?_⟩
  · exact execShow_next.mpr ⟨hacc, .inl ⟨hbusy, htime, rfl⟩⟩
  · have htime : waitTimesOut (callWaitIdle (setPhase .wait s)) = true := by
      simp [waitTimesOut, htimeout, hans, nextAnswer]
    rw [exec_showStrip_of hacc, showWait, callWaitIdle_busy, setPhase_busy, hbusy, htime]
    rfl

/-- SHOW in PH = ENC faults when the peripheral rejects a count of zero (93 U9). -/
theorem showEncode_of_zeroCount {s : State} (hbusy : s.busy = false) (hzero : nitems s.cfg = 0)
    (hrejects : s.cfg.zeroCountTxOk = false) : showEncode s = .fault .zeroCountRejected := by
  have htx : transmit (emitDiag (.frameBits (nitems s.cfg)) (mkwave s)) = .fault .zeroCountRejected := by
    simp [transmit, hbusy, hzero, hrejects]
  rw [showEncode, htx]

/-- An empty frame is completed at once: no phase of it is driven. -/
theorem peripheralTurn_emptyFrame {s : State} (hbusy : s.busy = true) (hempty : s.inflight = []) :
    peripheralTurn s = complete s := by
  simp [peripheralTurn, hbusy, hempty, phaseAt]

/-- Settles O45: the frame of an empty strip has no items, and the count is zero. -/
theorem showOfEmptyStrip : Obligations.ShowOfEmptyStrip := by
  intro s hacc hbusy hlen hline hwait htx
  have hframe : encodeFrame s.cfg s.pix = [] := by
    rw [encodeFrame, hlen]
    rfl
  have hcount : nitems s.cfg = 0 := by rw [nitems, hlen]
  refine ⟨fun haccepts => ?_, fun hrejects => ?_⟩
  · have hdone := exec_showStrip_done hacc hbusy ⟨hwait, htx, .inr haccepts⟩
    rw [showDone_eq, hframe, hcount] at hdone
    refine ⟨_, hdone, rfl, rfl, rfl, rfl, hline, rfl, ?_⟩
    rw [peripheralTurn_emptyFrame rfl rfl]
    exact ⟨rfl, rfl, rfl, rfl⟩
  · rw [exec_showStrip_of hacc, showWait_of_waitOk (s := callWaitIdle (setPhase .wait s)) hbusy hwait]
    exact showEncode_of_zeroCount hbusy hcount hrejects

/-- Settles O46: the two next states of `execShow_next` and what each writes. -/
theorem showFrame : Obligations.ShowFrame := by
  intro s t h
  obtain ⟨-, ⟨hbusy, -, rfl⟩ | ⟨hbusy, -, -, -, rfl⟩⟩ := execShow_next.mp h
  · exact ⟨rfl, fun _ => rfl, fun _ => rfl, .inl ⟨hbusy, rfl, rfl, rfl, rfl, rfl, rfl⟩⟩
  · rw [showDone_eq]
    exact ⟨rfl, fun _ => rfl, fun _ => rfl, .inr ⟨hbusy, rfl, rfl⟩⟩

end Sys2Proof.Machine
end

section
/-! The peripheral's turns: the phases of a frame in order, then the completion event (42_encoder R129, R130). -/

namespace Sys2Proof.Machine

theorem length_framePhases (items : List Item) : (framePhases items).length = 2 * items.length := by
  simp [framePhases, itemPhases, List.length_flatMap, Nat.mul_comm]

/-- The phase driven after `n` others is the `n`-th of the frame. -/
theorem phaseAt_eq_getElem? (items : List Item) (n : Nat) : phaseAt items n = (framePhases items)[n]? := by
  have hn : 2 * (n / 2) + n % 2 = n := by omega
  have hframe := getElem?_flatMap_of_length (f := itemPhases) (n := 2) (fun _ => rfl) (show n % 2 < 2 by omega) items
    (n / 2)
  rw [hn] at hframe
  rw [framePhases, hframe, phaseAt]
  cases items[n / 2]? with
  | none => rfl
  | some it => rcases Nat.mod_two_eq_zero_or_one n with h | h <;> simp [h, itemPhases]

theorem peripheralTurn_drives {s : State} {p : Phase} (hbusy : s.busy = true)
    (hphase : phaseAt s.inflight s.emitPos = some p) : peripheralTurn s = drivePhase p s := by
  simp [peripheralTurn, hbusy, hphase]

/-- Before the last phase is driven, a turn drives one more. -/
theorem exists_peripheralTurn_drives {s : State} (hbusy : s.busy = true) (hpos : s.emitPos < 2 * s.inflight.length) :
    ∃ p, peripheralTurn s = drivePhase p s := by
  obtain ⟨p, hphase⟩ := Option.ne_none_iff_exists'.mp (mt phaseAt_eq_none.mp (Nat.not_le.mpr hpos))
  exact ⟨p, peripheralTurn_drives hbusy hphase⟩

/-- After the last phase comes the completion event. -/
theorem peripheralTurn_completes {s : State} (hbusy : s.busy = true) (hpos : 2 * s.inflight.length ≤ s.emitPos) :
    peripheralTurn s = complete s := by
  simp [peripheralTurn, hbusy, phaseAt_eq_none.mpr hpos]

/-- Settles O47: a turn drives the phase `phaseAt` gives, or completes. -/
theorem completionEvent : Obligations.CompletionEvent := by
  refine fun s hbusy => ⟨fun hpos => ?_, fun hpos => ?_⟩
  · have hph : phAfterCompletion s.ph = if s.ph = .tx then .idle else s.ph := by cases s.ph <;> rfl
    rw [peripheralTurn_completes hbusy hpos, complete, hph]
  · have hlt : s.emitPos / 2 < s.inflight.length := by omega
    have hit : s.inflight[s.emitPos / 2]? = some s.inflight[s.emitPos / 2] := List.getElem?_eq_getElem hlt
    refine ⟨s.inflight[s.emitPos / 2], _, hit, rfl, peripheralTurn_drives hbusy ?_⟩
    rw [phaseAt, hit]
    exact (apply_ite some _ _ _).symm

/-- The state after `n` more phases of the frame in flight have been driven, with the line at a level. -/
def driven (n : Nat) (line : Level) (s : State) : State :=
  { s with
    line := line
    emitPos := s.emitPos + n
    obs := { s.obs with phases := s.obs.phases ++ ((framePhases s.inflight).drop s.emitPos).take n } }

/-- As many turns as there are phases left drive these phases in order; the line is at the level of the last (R129). -/
theorem iterate_peripheralTurn {s : State} (hbusy : s.busy = true) {n : Nat}
    (hn : n ≤ 2 * s.inflight.length - s.emitPos) :
    ∃ line, peripheralTurn^[n] s = driven n line s ∧
      (0 < n → some line = ((framePhases s.inflight)[s.emitPos + n - 1]?).map Phase.level) := by
  induction n with
  | zero => exact ⟨s.line, by simp [driven], nofun⟩
  | succ n ih =>
    obtain ⟨line, hdriven, -⟩ := ih (by omega)
    have hlt : s.emitPos + n < (framePhases s.inflight).length := by
      rw [length_framePhases]
      omega
    have hphase : (framePhases s.inflight)[s.emitPos + n]? = some (framePhases s.inflight)[s.emitPos + n] :=
      List.getElem?_eq_getElem hlt
    refine ⟨(framePhases s.inflight)[s.emitPos + n].level, ?_, fun _ => by simp [hphase]⟩
    rw [Function.iterate_succ_apply', hdriven,
      peripheralTurn_drives (s := driven n line s) hbusy ((phaseAt_eq_getElem? _ _).trans hphase)]
    simp [drivePhase, driven, List.take_add_one, hphase, Nat.add_assoc]

/-- Settles O48: the turns of `iterate_peripheralTurn` from the first phase on, and then the completion event. -/
theorem peripheralEmitsWholeFrame : Obligations.PeripheralEmitsWholeFrame := by
  intro s hbusy hpos
  have turns := fun n hn => iterate_peripheralTurn (s := s) (n := n) hbusy hn
  rw [hpos, Nat.sub_zero] at turns
  refine ⟨fun n hn => ?_, ?_⟩
  · obtain ⟨line, hdriven, hline⟩ := turns n hn
    rw [hdriven]
    refine ⟨?_, hbusy, rfl, fun h => ?_⟩
    · rw [driven, hpos]
      rfl
    · rw [Nat.zero_add] at hline
      exact hline h
  · obtain ⟨line, hdriven, -⟩ := turns _ le_rfl
    have hend : 2 * s.inflight.length ≤ s.emitPos + 2 * s.inflight.length := Nat.le_add_left _ _
    rw [Function.iterate_succ_apply', hdriven, peripheralTurn_completes (s := driven _ line s) hbusy hend]
    refine ⟨rfl, rfl, ?_⟩
    simp [driven, hpos, ← length_framePhases]

end Sys2Proof.Machine
end

section
/-! A SHOW that waits in PH = WAIT (41_strip R104, R107; 42_encoder R130; 70_reset R177): what the agents' turns make of
it, one by one and in any order. -/

namespace Sys2Proof.Machine

/-- The state with another schedule: nothing but `turnOf` reads it. -/
def withSched (l : List Agent) (s : State) : State := { s with env := { s.env with sched := l } }

theorem withSched_self {s : State} {l : List Agent} (h : s.env.sched = l) : withSched l s = s := by
  subst h
  rfl

theorem endTurn_eq_withSched (s : State) : endTurn s = withSched s.env.sched.tail s := rfl

theorem peripheralTurn_withSched (l : List Agent) (s : State) :
    peripheralTurn (withSched l s) = withSched l (peripheralTurn s) := by
  rcases peripheralTurn_cases s with ⟨hb, hp⟩ | ⟨hb, p, hphase, hp⟩ | ⟨hb, hphase, hp⟩ <;> rw [hp]
  · simp [peripheralTurn, withSched, hb]
  · exact peripheralTurn_drives (s := withSched l s) hb hphase
  · exact peripheralTurn_completes (s := withSched l s) hb (phaseAt_eq_none.mp hphase)

theorem iterate_peripheralTurn_withSched (l : List Agent) (n : Nat) (s : State) :
    peripheralTurn^[n] (withSched l s) = withSched l (peripheralTurn^[n] s) :=
  ((Function.Commute.iterate_left (fun s => peripheralTurn_withSched l s) n) : Function.Commute _ _) s

/-- A waiting SHOW goes on waiting on a turn of the block while BUSY = 1 (R177; log 19). -/
theorem step_block_waits {s : State} (ht : turnOf s = .block) (hwait : s.ph = .wait) (hbusy : s.busy = true)
    (htime : waitTimesOut s = false) : step s = .next (endTurn s) := by
  rw [step_block ht, blockTurn_of_wait (s := endTurn s) hwait]
  exact showWait_next.mpr (.inl ⟨hbusy, htime, rfl⟩)

/-- Any order of turns of the block and of turns of the peripheral that drive phases amounts, while a SHOW waits, to the
peripheral's turns alone. -/
theorem run_waiting {turns rest : List Agent} {s : State} (k : Nat) (hwait : s.ph = .wait) (hbusy : s.busy = true)
    (htime : waitTimesOut s = false) (hsched : s.env.sched = turns ++ rest)
    (hcount : turns.count .peripheral ≤ 2 * s.inflight.length - s.emitPos) :
    Host.Core.run Sys2Proof.core (turns.length + k) s =
      Host.Core.run Sys2Proof.core k (withSched rest (peripheralTurn^[turns.count .peripheral] s)) := by
  induction turns generalizing s with
  | nil =>
    rw [List.count_nil, Function.iterate_zero_apply, withSched_self (l := rest) hsched, List.length_nil, Nat.zero_add]
  | cons a turns ih =>
    have hturn : turnOf s = a := turnOf_cons hsched
    have htail : (endTurn s).env.sched = turns ++ rest := by rw [endTurn_env, hsched]; rfl
    have absorb : ∀ n u, withSched rest (peripheralTurn^[n] (withSched (turns ++ rest) u)) =
        withSched rest (peripheralTurn^[n] u) := fun n u => by
      rw [iterate_peripheralTurn_withSched]
      rfl
    have hend : endTurn s = withSched (turns ++ rest) s := by rw [endTurn_eq_withSched, hsched]; rfl
    rw [List.length_cons, Nat.add_right_comm]
    cases a with
    | block =>
      rw [List.count_cons_of_ne (by decide)] at hcount ⊢
      rw [run_next (step_block_waits hturn hwait hbusy htime),
        ih (s := endTurn s) hwait hbusy htime htail hcount, hend, absorb]
    | peripheral =>
      rw [List.count_cons_self] at hcount ⊢
      obtain ⟨p, hdrive⟩ :=
        exists_peripheralTurn_drives (s := endTurn s) hbusy (show s.emitPos < 2 * s.inflight.length by omega)
      have hleft : turns.count .peripheral ≤ 2 * s.inflight.length - (s.emitPos + 1) := by omega
      rw [run_next (step_peripheral hturn), hdrive,
        ih (s := drivePhase p (endTurn s)) hwait hbusy htime htail hleft, ← hdrive, hend, peripheralTurn_withSched,
        absorb, Function.iterate_succ_apply]

/-- The same in the model's default order, in which the block cannot move while BUSY = 1 (log 2). -/
theorem run_waiting_default {n : Nat} {s : State} (k : Nat) (hwait : s.ph = .wait) (hbusy : s.busy = true)
    (hsched : s.env.sched = []) (hn : n ≤ 2 * s.inflight.length - s.emitPos) :
    Host.Core.run Sys2Proof.core (n + k) s = Host.Core.run Sys2Proof.core k (peripheralTurn^[n] s) := by
  induction n generalizing s with
  | zero => rw [Nat.zero_add]; rfl
  | succ n ih =>
    have hturn : turnOf s = .peripheral := by simp [turnOf, hsched, blockCanMove, hwait, hbusy]
    have hend : endTurn s = s := by rw [endTurn_eq_withSched, hsched]; exact withSched_self hsched
    obtain ⟨p, hdrive⟩ := exists_peripheralTurn_drives (s := s) hbusy (by omega)
    have hleft : n ≤ 2 * s.inflight.length - (s.emitPos + 1) := by omega
    rw [Nat.add_right_comm, run_next (step_peripheral hturn), hend, Function.iterate_succ_apply, hdrive]
    exact ih (s := drivePhase p s) hwait hbusy hsched hleft

/-- Settles O50: the block's turns alone are the case of `run_waiting` with no turn of the peripheral. -/
theorem waitingShowHangs : Obligations.WaitingShowHangs := by
  intro n s rest hwait hbusy hforever hsched
  have hcount : (List.replicate n Agent.block).count .peripheral = 0 := by simp [List.count_replicate]
  have hrun := run_waiting 0 hwait hbusy (waitTimesOut_forever hforever) hsched (by rw [hcount]; exact Nat.zero_le _)
  rwa [hcount, List.length_replicate, Nat.add_zero, run_zero] at hrun

/-- A turn of the block in PH = WAIT with BUSY = 0 completes the SHOW, if the peripheral answers Ok (R104). -/
theorem blockTurn_completes {s : State} (hwait : s.ph = .wait) (hbusy : s.busy = false) (hans : PeripheralAnswersOk s) :
    blockTurn s = .next (shown (setPhase .enc (consumeWaitAnswer s))) := by
  obtain ⟨hok, htx, hcount⟩ := hans
  rw [blockTurn_of_wait hwait, showWait_of_waitOk hbusy hok]
  exact showEncode_next.mpr ⟨hbusy, count_accepted hcount, htx, rfl⟩

/-- What the SHOW leaves that has waited: what it writes, and everything else as it was. -/
theorem shown_eq (s : State) : shown (setPhase .enc (consumeWaitAnswer s)) =
    { s with
      ph := .tx
      wave := cellsFrom 0 (encodeFrame s.cfg s.pix)
      busy := true
      inflight := encodeFrame s.cfg s.pix
      emitPos := 0
      env := { s.env with waitAnswers := s.env.waitAnswers.tail, txAnswers := s.env.txAnswers.tail }
      obs := { s.obs with
        diag := s.obs.diag ++ [.frameBits (nitems s.cfg)]
        frames := s.obs.frames ++ [encodeFrame s.cfg s.pix]
        calls := s.obs.calls ++ [.transmit s.cfg.channel (nitems s.cfg) false] } } := rfl

/-- Once every phase is driven, the completion event and a turn of the block complete the waiting SHOW. -/
theorem run_completes {u : State} (hwait : u.ph = .wait) (hbusy : u.busy = true)
    (hpos : 2 * u.inflight.length ≤ u.emitPos) (hans : PeripheralAnswersOk u) (hperiph : turnOf u = .peripheral)
    (hblock : turnOf (complete (endTurn u)) = .block) :
    Host.Core.run Sys2Proof.core 2 u =
      .next (shown (setPhase .enc (consumeWaitAnswer (endTurn (complete (endTurn u)))))) := by
  have hph : phAfterCompletion u.ph = .wait := by rw [hwait]; rfl
  have hshow := blockTurn_completes (s := endTurn (complete (endTurn u))) hph rfl hans
  rw [run_next (step_peripheral hperiph), peripheralTurn_completes (s := endTurn u) hbusy hpos,
    run_next ((step_block hblock).trans hshow), run_zero]

theorem waitTimesOut_of_ok {s : State} (h : nextAnswer s.env.waitAnswers = .ok) : waitTimesOut s = false := by
  unfold waitTimesOut
  split
  · rfl
  · simp [h]

/-- Once the phases that were left are driven, its completion and the next hand-off end the wait of a SHOW (R104, R130). -/
theorem run_completes_driven {s : State} {n : Nat} {line : Level} {sched : List Agent} (hwait : s.ph = .wait)
    (hbusy : s.busy = true) (hans : PeripheralAnswersOk s) (hn : n = 2 * s.inflight.length - s.emitPos)
    (hperiph : turnOf (withSched sched (driven n line s)) = .peripheral)
    (hblock : turnOf (complete (endTurn (withSched sched (driven n line s)))) = .block) :
    ∃ t : State, Host.Core.run Sys2Proof.core 2 (withSched sched (driven n line s)) = .next t ∧
      t.ph = .tx ∧ t.busy = true ∧ t.inflight = encodeFrame s.cfg s.pix ∧
      t.obs.phases = s.obs.phases ++ (framePhases s.inflight).drop s.emitPos ∧
      t.obs.frames = s.obs.frames ++ [t.inflight] ∧ t.pix = s.pix ∧ t.env.port = s.env.port ∧
      t.env.sched = sched.tail.tail := by
  have hlast : 2 * s.inflight.length ≤ s.emitPos + n := by omega
  have hrest : ((framePhases s.inflight).drop s.emitPos).take n = (framePhases s.inflight).drop s.emitPos :=
    List.take_of_length_le (by rw [List.length_drop, length_framePhases, hn])
  have hrun := run_completes (u := withSched sched (driven n line s)) hwait hbusy hlast hans hperiph hblock
  rw [shown_eq] at hrun
  exact ⟨_, hrun, rfl, rfl, rfl, congrArg (s.obs.phases ++ ·) hrest, rfl, rfl, rfl, rfl⟩

/-- Settles O49: while the frame in flight is driven the SHOW waits, whatever the order (`run_waiting`,
`run_waiting_default`); then it completes (`run_completes_driven`). -/
theorem waitingShowCompletes : Obligations.WaitingShowCompletes := by
  refine ⟨fun s hwait hbusy hans => ?_, fun s => step_block, fun s turns rest _ hwait hbusy hans hsched hcount => ?_,
    fun s _ hwait hbusy hans hsched => ?_⟩
  · have hdone := blockTurn_completes hwait hbusy hans
    rw [shown_eq] at hdone
    exact ⟨_, hdone, rfl, fun j => waveItem_mkwave j s, rfl⟩
  · obtain ⟨line, hdriven, -⟩ := iterate_peripheralTurn hbusy (le_refl (2 * s.inflight.length - s.emitPos))
    rw [run_waiting 2 hwait hbusy (waitTimesOut_of_ok hans.1) hsched hcount.le, hcount, hdriven]
    exact run_completes_driven hwait hbusy hans rfl rfl rfl
  · obtain ⟨line, hdriven, -⟩ := iterate_peripheralTurn hbusy (le_refl (2 * s.inflight.length - s.emitPos))
    rw [run_waiting_default 2 hwait hbusy hsched le_rfl, hdriven, ← withSched_self (s := driven _ line s) hsched]
    obtain ⟨t, hrun, hph, hb, hinflight, hphases, hframes, hpix, hport, -⟩ :=
      run_completes_driven (line := line) (sched := []) hwait hbusy hans rfl
        (by simp [turnOf, withSched, driven, blockCanMove, hwait, hbusy])
        (by simp [turnOf, withSched, driven, blockCanMove, hwait, phAfterCompletion])
    exact ⟨t, hrun, hph, hb, hinflight, hphases, hframes, hpix, hport⟩

end Sys2Proof.Machine
end

section
/-! The phase register and the frame in flight along a step (41_strip R107, 70_reset R175), and the order of a command and
an event of the peripheral (60_exceptions R148). -/

namespace Sys2Proof.Machine

/-! The phase register. -/

/-- An event of the peripheral keeps PH, unless it completes a frame in TX. -/
theorem peripheralTurn_ph (s : State) : (peripheralTurn s).ph = s.ph ∨
    (s.ph = .tx ∧ s.busy = true ∧ (peripheralTurn s).ph = .idle ∧ (peripheralTurn s).busy = false) := by
  rcases peripheralTurn_cases s with ⟨-, hp⟩ | ⟨-, p, -, hp⟩ | ⟨hbusy, -, hp⟩ <;> rw [hp]
  · exact .inl rfl
  · exact .inl rfl
  · rw [complete_ph]
    cases hph : s.ph with
    | tx => exact .inr ⟨rfl, hbusy, rfl, rfl⟩
    | idle | wait | enc => exact .inl rfl

/-- A command keeps PH, unless it is an accepted SHOW, which waits or completes. -/
theorem exec_ph {i : Instr} {s t : State} (h : exec i s = .next t) : t.ph = s.ph ∨
    (i = .showStrip ∧ ShowAccepted s ∧ ((s.busy = true ∧ t.ph = .wait) ∨ (s.busy = false ∧ t.ph = .tx))) := by
  by_cases hi : i = .showStrip
  · subst hi
    obtain ⟨hacc, ⟨hbusy, -, rfl⟩ | ⟨hbusy, -, -, -, rfl⟩⟩ := execShow_next.mp h
    · exact .inr ⟨rfl, hacc, .inl ⟨hbusy, rfl⟩⟩
    · exact .inr ⟨rfl, hacc, .inr ⟨hbusy, showDone_ph s⟩⟩
  · exact .inl (by rw [exec_not_show_frame hi h])

/-- What a step makes of PH: it keeps it, or the event is one of the four edges of R107. A construction finds IDLE and
leaves IDLE, since outside IDLE the strip lives. -/
theorem step_ph {s t : State} (hinv : Inv s) (h : step s = .next t) : t.ph = s.ph ∨
    (turnOf s = .peripheral ∧ s.ph = .tx ∧ s.busy = true ∧ t.ph = .idle ∧ t.busy = false) ∨
    (turnOf s = .block ∧ s.ph = .wait ∧ s.busy = false ∧ t.ph = .tx) ∨
    (turnOf s = .block ∧ s.ph = .enc ∧ t.ph = .tx) ∨
    (turnOf s = .block ∧ PortIsFree s ∧ (∃ w rest, s.env.port = .command w :: rest ∧ decode w = .ok .showStrip) ∧
      PeripheralReady s ∧ ((s.busy = true ∧ t.ph = .wait) ∨ (s.busy = false ∧ t.ph = .tx))) := by
  rcases step_cases h with ⟨ht, rfl⟩ | ⟨ht, hwait, hshow⟩ | ⟨ht, henc, hshow⟩ | ⟨-, -, -, rfl⟩ |
    ⟨ht, hfree, w, rest, i, hport, hi, hexec⟩ | ⟨-, -, a, rest, -, hlive, -, rfl⟩
  · rcases peripheralTurn_ph (endTurn s) with hph | ⟨htx, hbusy, hph, hdone⟩
    · exact .inl hph
    · exact .inr (.inl ⟨ht, htx, hbusy, hph, hdone⟩)
  · rcases showWait_next.mp hshow with ⟨-, -, rfl⟩ | ⟨hbusy, -, hshow⟩
    · exact .inl rfl
    · obtain ⟨-, -, -, rfl⟩ := showEncode_next.mp hshow
      exact .inr (.inr (.inl ⟨ht, hwait, hbusy, rfl⟩))
  · obtain ⟨-, -, -, rfl⟩ := showEncode_next.mp hshow
    exact .inr (.inr (.inr (.inl ⟨ht, henc, rfl⟩)))
  · exact .inl rfl
  · rcases exec_ph hexec with hph | ⟨rfl, ⟨-, -, hready, -⟩, hout⟩
    · exact .inl hph
    · exact .inr (.inr (.inr (.inr ⟨ht, hfree, ⟨w, rest, hport, hi⟩, hready, hout⟩)))
  · have hidle : s.ph = .idle := by
      by_contra hne
      cases hlive.symm.trans (hinv.notIdleReady hne).1
    exact .inl ((construct_ph a _).trans hidle.symm)

/-- Settles O51: of the edges of `step_ph`, those that leave each value of PH. -/
theorem phaseTransitions : Obligations.PhaseTransitions := by
  intro s t hinv h
  rcases step_ph hinv h with hph | ⟨ht, htx, hbusy, hph, hdone⟩ | ⟨ht, hwait, hbusy, hph⟩ | ⟨ht, henc, hph⟩ |
    ⟨ht, hfree, hport, hready, hout⟩
  · rw [hph]
    exact ⟨.inl, .inl, .inl, .inl⟩
  · simp [htx, hph, ht, hbusy, hdone]
  · simp [hwait, hph, ht, hbusy]
  · simp [henc, hph, ht]
  · refine ⟨fun hidle => ?_, fun _ => ?_, fun hwait => ?_, fun henc => ?_⟩
    · rcases hout with ⟨hbusy, -⟩ | ⟨-, hph⟩
      · exact absurd hbusy (hinv.notBusy_of_idle hidle hready)
      · exact .inr ⟨hph, ht, hport⟩
    · rcases hout with ⟨-, hph⟩ | ⟨-, hph⟩
      · exact .inr (.inl ⟨hph, ht, hport⟩)
      · exact .inl hph
    · rcases hfree with h | h <;> cases hwait.symm.trans h
    · rcases hfree with h | h <;> cases henc.symm.trans h

/-! The frame in flight. -/

/-- With a frame in flight no command writes WAVE, ends the frame or exchanges it: DESTROY, which would empty WAVE, is
refused then. -/
theorem exec_keeps_frame {i : Instr} {s t : State} (hinv : Inv s) (hready : PeripheralReady s) (hbusy : s.busy = true)
    (h : exec i s = .next t) : t.wave = s.wave ∧ t.busy = true ∧ t.inflight = s.inflight := by
  rcases exec_cases h with ⟨-, -, -, cd, c, -, rfl⟩ | ⟨-, -, -, -, v, rfl⟩ | ⟨-, -, idx, c, rfl⟩ | ⟨-, -, rfl⟩ |
    ⟨-, -, -, -, rfl⟩ | ⟨-, -, hnot, -⟩ | ⟨-, hacc, -⟩ | ⟨-, -, rfl⟩
  · exact ⟨rfl, hbusy, rfl⟩
  · exact ⟨rfl, hbusy, rfl⟩
  · rw [pixelStore_frame]
    exact ⟨rfl, hbusy, rfl⟩
  · exact ⟨rfl, hbusy, rfl⟩
  · exact ⟨rfl, hbusy, rfl⟩
  · cases hbusy.symm.trans hnot
  · exact absurd hbusy (hinv.notBusy_of_idle hacc.2 hready)
  · exact ⟨rfl, hbusy, rfl⟩

/-- Settles O52: with a frame in flight only a turn of the peripheral ends it, after the last phase. -/
theorem frameInFlightIsProtected : Obligations.FrameInFlightIsProtected := by
  intro s t hinv hready hbusy h
  have kept : ∀ {u : State}, u.wave = s.wave ∧ u.busy = true ∧ u.inflight = s.inflight →
      u.wave = s.wave ∧ (u.busy = true → u.inflight = s.inflight) ∧
        (u.busy = false → turnOf s = .peripheral ∧ s.emitPos = 2 * s.inflight.length ∧ u.inflight = []) :=
    fun ⟨hwave, hb, hinflight⟩ => ⟨hwave, fun _ => hinflight, fun hnot => nomatch hb.symm.trans hnot⟩
  rcases step_cases h with ⟨ht, rfl⟩ | ⟨-, -, hshow⟩ | ⟨-, henc, -⟩ | ⟨-, -, -, rfl⟩ |
    ⟨-, -, w, rest, i, -, -, hexec⟩ | ⟨-, hfree, a, rest, -, hlive, -, -⟩
  · rcases peripheralTurn_cases (endTurn s) with ⟨hnot, -⟩ | ⟨-, p, -, hp⟩ | ⟨-, hphase, hp⟩
    · cases hbusy.symm.trans hnot
    · rw [hp]
      exact kept ⟨rfl, hbusy, rfl⟩
    · have hend : s.emitPos = 2 * s.inflight.length :=
        Nat.le_antisymm (hinv.frameIsWave hready hbusy).2 (phaseAt_eq_none.mp hphase)
      rw [hp]
      exact ⟨rfl, nofun, fun _ => ⟨ht, hend, rfl⟩⟩
  · rcases showWait_next.mp hshow with ⟨-, -, rfl⟩ | ⟨hnot, -⟩
    · exact kept ⟨rfl, hbusy, rfl⟩
    · cases hbusy.symm.trans hnot
  · cases hbusy.symm.trans (hinv.encNotBusy henc)
  · exact kept ⟨rfl, hbusy, rfl⟩
  · exact kept (exec_keeps_frame (s := portPopped rest s) (hinv.frame _ _ _ _) hready hbusy hexec)
  · rcases hfree with hidle | htx
    · exact absurd hbusy (hinv.notBusy_of_idle hidle hready)
    · cases hlive.symm.trans (hinv.notIdleReady (by simp [htx])).1

/-! A Color or pixel command and an event of the peripheral, in either order. -/

/-- The state with registers, PIX and responses as a Color or pixel command leaves them. -/
def withBlockData (cr : ColorRegs) (pix : Cells Color) (responses : List Word) (s : State) : State :=
  { s with cr := cr, pix := pix, obs := { s.obs with responses := responses } }

/-- An event of the peripheral neither reads nor writes these. -/
theorem peripheralTurn_withBlockData (cr : ColorRegs) (pix : Cells Color) (responses : List Word) (s : State) :
    peripheralTurn (withBlockData cr pix responses s) = withBlockData cr pix responses (peripheralTurn s) := by
  rcases peripheralTurn_cases s with ⟨hb, hp⟩ | ⟨hb, p, hphase, hp⟩ | ⟨hb, hphase, hp⟩ <;> rw [hp]
  · simp [peripheralTurn, withBlockData, hb]
  · exact peripheralTurn_drives (s := withBlockData cr pix responses s) hb hphase
  · exact peripheralTurn_completes (s := withBlockData cr pix responses s) hb (phaseAt_eq_none.mp hphase)

/-- What an event of the peripheral leaves, as far as the Color and pixel commands read it. -/
theorem peripheralTurn_block (s : State) :
    (peripheralTurn s).cr = s.cr ∧ (peripheralTurn s).pix = s.pix ∧ (peripheralTurn s).cfg = s.cfg ∧
      (peripheralTurn s).obs.responses = s.obs.responses := by
  rw [peripheralTurn_frame]
  exact ⟨rfl, rfl, rfl, rfl⟩

/-- A Color command is accepted after an event of the peripheral as before it; so is a pixel command. -/
theorem ColorAccepted.peripheralTurn {s : State} (h : ColorAccepted s) : ColorAccepted (peripheralTurn s) := by
  obtain ⟨hlive, halloc, hfree⟩ := h
  have hfree' : PortIsFree (Machine.peripheralTurn s) := by
    rcases peripheralTurn_ph s with hph | ⟨-, -, hph, -⟩
    · rwa [PortIsFree, hph]
    · exact .inl hph
  rw [peripheralTurn_frame] at hfree' ⊢
  exact ⟨hlive, halloc, hfree'⟩

theorem getReg_peripheralTurn (r : CReg) (s : State) : getReg r (peripheralTurn s) = getReg r s := by
  rw [getReg, (peripheralTurn_block s).1, getReg]

/-- An update of the registers, of PIX and of the responses, each from what it was, can be taken before or after an event
of the peripheral. -/
theorem peripheralTurn_commutes {f : State → State} (regs : ColorRegs → ColorRegs)
    (pix : InstanceConfig → Cells Color → Cells Color) (responses : List Word → List Word)
    (hf : ∀ s, f s = withBlockData (regs s.cr) (pix s.cfg s.pix) (responses s.obs.responses) s) (s : State) :
    f (peripheralTurn s) = peripheralTurn (f s) := by
  obtain ⟨hcr, hpix, hcfg, hresp⟩ := peripheralTurn_block s
  rw [hf s, peripheralTurn_withBlockData, hf (peripheralTurn s), hcr, hpix, hcfg, hresp]

theorem colorWrite_peripheralTurn {cd : CReg} {c : Color} {s t : State} (h : colorWrite cd c s = .next t) :
    colorWrite cd c (peripheralTurn s) = .next (peripheralTurn t) := by
  obtain ⟨hacc, rfl⟩ := colorWrite_next.mp h
  exact colorWrite_next.mpr ⟨hacc.peripheralTurn,
    peripheralTurn_commutes (regsSet cd c) (fun _ m => m) id (fun _ => rfl) s⟩

theorem colorAnswer_peripheralTurn {v : Word} {s t : State} (h : colorAnswer v s = .next t) :
    colorAnswer v (peripheralTurn s) = .next (peripheralTurn t) := by
  obtain ⟨hacc, rfl⟩ := colorAnswer_next.mp h
  exact colorAnswer_next.mpr ⟨hacc.peripheralTurn,
    peripheralTurn_commutes id (fun _ m => m) (· ++ [v]) (fun _ => rfl) s⟩

theorem pixelStore_eq_withBlockData (idx : PixIdx) (c : Color) (s : State) : pixelStore idx c s =
    withBlockData s.cr (if idx.toNat < s.cfg.length then pixWrite idx.toNat c s.pix else s.pix) s.obs.responses s := by
  rcases pixelStore_cases idx c s with ⟨hlt, hp⟩ | ⟨hle, hp⟩ <;> rw [hp]
  · rw [if_pos hlt]
    rfl
  · rw [if_neg (Nat.not_lt.mpr hle)]
    rfl

theorem pixelStore_peripheralTurn {idx : PixIdx} {c : Color} {s t : State}
    (h : whenAccepted .pixel s (.next (pixelStore idx c s)) = .next t) :
    whenAccepted .pixel (peripheralTurn s) (.next (pixelStore idx c (peripheralTurn s))) = .next (peripheralTurn t) := by
  obtain ⟨hacc, ht⟩ := whenAccepted_next.mp h
  cases ht
  have hcomm := peripheralTurn_commutes id
    (fun cfg m => if idx.toNat < cfg.length then pixWrite idx.toNat c m else m) id (pixelStore_eq_withBlockData idx c) s
  rw [whenAccepted_of (c := .pixel) (ColorAccepted.peripheralTurn hacc), hcomm]

/-- Settles O53: each command's update is of the registers, PIX and the responses (`peripheralTurn_commutes`), and the
command is accepted after the event as before it (`ColorAccepted.peripheralTurn`). -/
theorem peripheralEventCommutesWithCommands : Obligations.PeripheralEventCommutesWithCommands := by
  intro i s t hi h
  cases i with
  | csetrgbw | cset32 => exact colorWrite_peripheralTurn h
  | csetcolor | csetr | csetg | csetb | csetw =>
    simpa only [exec, execCsetcolor, execCsetr, execCsetg, execCsetb, execCsetw, getReg_peripheralTurn] using
      colorWrite_peripheralTurn h
  | cget32 | cgetr | cgetg | cgetb | cgetw =>
    simpa only [exec, execCget32, execCgetr, execCgetg, execCgetb, execCgetw, getReg_peripheralTurn] using
      colorAnswer_peripheralTurn h
  | setpixc | setpixrgbw =>
    simpa only [exec, execSetpixc, execSetpixrgbw, getReg_peripheralTurn] using pixelStore_peripheralTurn h
  | clear =>
    obtain ⟨hacc, rfl⟩ := exec_clear_next.mp h
    exact exec_clear_next.mpr ⟨ColorAccepted.peripheralTurn hacc,
      peripheralTurn_commutes id (fun cfg => pixClear cfg.length) id (fun _ => rfl) s⟩
  | showStrip | destroy | rdstat => rcases hi with hi | hi <;> cases hi

end Sys2Proof.Machine
end
